-- ==== Sys2Proof/Config.lean ====
section
/-! DEFINITION. The constants and sizes the protocol fixes (spec/00_scope.md R5, R6). Nothing here can be changed at
run time (R6) and the spec leaves no parameter open, so there is no opaque value. -/

namespace Sys2Proof.Config

/-- `END`, the frame delimiter byte (00_scope.md R5, 30_encoding.md R46). -/
abbrev END : BitVec 8 := 0xC0#8
/-- `ESC`, the escape introducer byte (R5, R46). -/
abbrev ESC : BitVec 8 := 0xDB#8
/-- `ESC_END`, the second byte of the pair that stands for a data byte equal to `END` (R5, R46). -/
abbrev ESC_END : BitVec 8 := 0xDC#8
/-- `ESC_ESC`, the second byte of the pair that stands for a data byte equal to `ESC` (R5, R46). -/
abbrev ESC_ESC : BitVec 8 := 0xDD#8

/-- `HEADER_LEN`, bytes in a datagram header (R5). -/
abbrev headerLen : Nat := 4
/-- `PAYLOAD_LEN`, bytes in a datagram payload (R5). -/
abbrev payloadLen : Nat := 8
/-- `DGRAM_LEN`, de-stuffed bytes in a frame (R5). -/
abbrev dgramLen : Nat := headerLen + payloadLen
/-- `MIN_FRAME`, the shortest frame in bytes (R5; 90_conflicts.md C1: 14, not 10). -/
abbrev minFrame : Nat := 1 + headerLen + payloadLen + 1
/-- `MAX_FRAME`, the longest frame in bytes (R5). -/
abbrev maxFrame : Nat := 1 + 2 * headerLen + 2 * payloadLen + 1

/-- `DATA_W`, width of the byte ports (R6). -/
abbrev dataW : Nat := 8
/-- `COUNT_W`, width of `dec_count` and of `enc_pos` (R6). -/
abbrev countW : Nat := 4
/-- `STATE_W`, width of `dec_state` (R6). -/
abbrev stateW : Nat := 2
/-- `ERRKIND_W`, width of `err_kind` (R6). -/
abbrev errKindW : Nat := 2

end Sys2Proof.Config
end

