-- ==== Sys2Proof/Word.lean ====
section
/-! DEFINITION. The data the framer moves: bytes, headers, payloads, datagrams (spec/00_scope.md 5.1), and the three
values of the decoder's state machine (spec/10_state.md R8). -/

namespace Sys2Proof

/-- A byte: an unsigned 8-bit value, bit 7 the most significant (00_scope.md 5.1, 20_memory.md R33). -/
abbrev Byte := BitVec 8

/-- A header is exactly 4 bytes (00_scope.md 5.1). -/
abbrev Header := Vector Byte 4

/-- A payload is exactly 8 bytes (00_scope.md 5.1). -/
abbrev Payload := Vector Byte 8

/-- The 12 bytes of a datagram before stuffing, and the content of either buffer (00_scope.md section 6, 20_memory.md
R30). -/
abbrev Content := Vector Byte 12

/-- A datagram is a pair (header, payload) (00_scope.md 5.1). Its lengths are in its type, so a shorter buffer cannot
be given (40_encoder.md R64). -/
structure Datagram where
  header : Header
  payload : Payload
deriving DecidableEq, Repr

/-- The three states of the frame-recognition state machine (10_state.md R8). Value 3 of the 2-bit register is
unrepresentable, as 93_implementation_defined.md U4 asks. -/
inductive DecState where
  /-- No frame is open. -/
  | idle
  /-- An opening `END` has been seen; bytes are being accumulated. -/
  | inFrame
  /-- The previous byte of the open frame was `ESC`. -/
  | escaping
deriving DecidableEq, Repr

end Sys2Proof
end

