-- ==== Sys2Proof/Syntax.lean ====
section
/-! DEFINITION. The operations of the framer, one constructor for each of the 22 rows of spec/opcode_table.json
(spec/00_scope.md 5.3). -/

namespace Sys2Proof

/-- The operations. A row of the table that stands for many byte values carries the byte, and a row that takes a
datagram carries it. -/
inductive Instr where
  /-- `DEC.IDLE.END`: open a frame (41_decoder.md R80). -/
  | decIdleEnd
  /-- `DEC.IDLE.SKIP`: drop a byte outside every frame (R81). -/
  | decIdleSkip (b : Byte)
  /-- `DEC.INFRAME.END`: close a frame (R82). -/
  | decInframeEnd
  /-- `DEC.INFRAME.ESC`: escape introducer (R83). -/
  | decInframeEsc
  /-- `DEC.INFRAME.DATA`: ordinary data byte (R84). -/
  | decInframeData (b : Byte)
  /-- `DEC.ESC.END`: escaped delimiter value (R85). -/
  | decEscEnd
  /-- `DEC.ESC.ESC`: escaped escape value (R86). -/
  | decEscEsc
  /-- `DEC.ESC.BAD`: bad escape (R87). -/
  | decEscBad (b : Byte)
  /-- `DEC.NOP`: no byte this step (R88). -/
  | decNop
  /-- `STUFF.LIT`: a content byte sent verbatim (40_encoder.md R59). -/
  | stuffLit (b : Byte)
  /-- `STUFF.END`: a content byte equal to `END` (R60). -/
  | stuffEnd
  /-- `STUFF.ESC`: a content byte equal to `ESC` (R61). -/
  | stuffEsc
  /-- `FRAME`: the function `encode` of a whole datagram (R62). -/
  | frame (d : Datagram)
  /-- `ENC.LOAD`: accept a datagram (R66). -/
  | encLoad (d : Datagram)
  /-- `ENC.OPEN`: emit the opening delimiter (R67). -/
  | encOpen
  /-- `ENC.LIT`: emit a content byte verbatim (R68). -/
  | encLit
  /-- `ENC.ESC1`: emit the escape introducer (R69). -/
  | encEsc1
  /-- `ENC.ESC2`: emit the second byte of an escape pair (R70). -/
  | encEsc2
  /-- `ENC.CLOSE`: emit the closing delimiter (R71). -/
  | encClose
  /-- `ENC.STALL`: the byte sink is not ready (R72). -/
  | encStall
  /-- `ENC.WAIT`: nothing to send (R73). -/
  | encWait
  /-- `RESET` (70_reset_and_hazards.md R117). -/
  | reset
deriving DecidableEq, Repr

end Sys2Proof
end

