-- ==== Sys2Proof/WellFormed.lean ====
section
/-! DEFINITION. Which operands an operation may carry: the `excludes` of its row in spec/opcode_table.json and the byte
conditions of spec/40_encoder.md R59 and spec/41_decoder.md R81, R84, R87. -/

namespace Sys2Proof

open Config

/-- The byte an operation carries is one that its row stands for: the byte values that have a row of their own in the
same state are excluded. -/
def Instr.wf : Instr → Bool
  | .decIdleEnd => true
  | .decIdleSkip b => b != END
  | .decInframeEnd => true
  | .decInframeEsc => true
  | .decInframeData b => b != END && b != ESC
  | .decEscEnd => true
  | .decEscEsc => true
  | .decEscBad b => b != ESC_END && b != ESC_ESC
  | .decNop => true
  | .stuffLit b => b != END && b != ESC
  | .stuffEnd => true
  | .stuffEsc => true
  | .frame _ => true
  | .encLoad _ => true
  | .encOpen => true
  | .encLit => true
  | .encEsc1 => true
  | .encEsc2 => true
  | .encClose => true
  | .encStall => true
  | .encWait => true
  | .reset => true

end Sys2Proof
end

