-- ==== Sys2Proof/Decode.lean ====
section
/-! DEFINITION. The wire format: which operation a byte selects (spec/30_encoding.md R52, R53), the frame as the word of
`FRAME` (R45, R50), and the encoder of each operation's word, `stuff` (R47) and `encode` (spec/40_encoder.md R62) among
them. -/

namespace Sys2Proof

open Config

/-! ## The content of a datagram -/

/-- The 12 content bytes `header ++ payload` of a datagram, by the index map of 20_memory.md R31. -/
def Datagram.content (d : Datagram) : Content :=
  #v[d.header[0], d.header[1], d.header[2], d.header[3],
     d.payload[0], d.payload[1], d.payload[2], d.payload[3],
     d.payload[4], d.payload[5], d.payload[6], d.payload[7]]

/-- The datagram whose content a 12-byte buffer holds: `header = a[0..4]`, `payload = a[4..12]` (30_encoding.md R51,
20_memory.md R31). -/
def Datagram.ofContent (a : Content) : Datagram :=
  { header := #v[a[0], a[1], a[2], a[3]]
    payload := #v[a[4], a[5], a[6], a[7], a[8], a[9], a[10], a[11]] }

/-- The document's `decode` of accumulated bytes: the first 12 as a datagram, nothing from fewer (41_decoder.md R97,
30_encoding.md R51). Bytes after the twelfth are ignored. -/
def Datagram.ofBytes : List Byte → Option Datagram
  | h0 :: h1 :: h2 :: h3 :: p0 :: p1 :: p2 :: p3 :: p4 :: p5 :: p6 :: p7 :: _ =>
      some { header := #v[h0, h1, h2, h3], payload := #v[p0, p1, p2, p3, p4, p5, p6, p7] }
  | _ => none

/-! ## Stuffing and frames -/

/-- `stuff` maps one content byte to one or two wire bytes (30_encoding.md R47). -/
def stuff (b : Byte) : List Byte :=
  if b = END then [ESC, ESC_END]
  else if b = ESC then [ESC, ESC_ESC]
  else [b]

/-- The stuffed form of a sequence of content bytes, in index order (20_memory.md R32). -/
def stuffAll (bs : List Byte) : List Byte := bs.flatMap stuff

/-- The frame of 12 content bytes (30_encoding.md R45). -/
def encodeContent (c : Content) : List Byte := [END] ++ stuffAll c.toList ++ [END]

/-- The function `encode(header, payload)` (40_encoder.md R62). -/
def encodeFrame (d : Datagram) : List Byte := encodeContent d.content

/-! ## Decoding -/

/-- Why bytes are no word of an operation. No framing error of the machine is meant: the machine's decoder takes every
byte (30_encoding.md R52). -/
inductive DecodeError where
  /-- A content byte was asked for and there is none. -/
  | noByte
  /-- A frame begins with `END` (30_encoding.md R45). -/
  | noOpeningEnd
  /-- A frame ends with `END`, and the bytes ran out before it. -/
  | notClosed
  /-- `ESC` is followed by a byte other than `ESC_END`, `ESC_ESC` (R50). -/
  | badEscape
  /-- A frame is the wire form of exactly 12 content bytes (R45); these are fewer. -/
  | tooShort
  /-- A frame is the wire form of exactly 12 content bytes (R45); these are more. -/
  | tooLong
deriving DecidableEq, Repr

/-- Where the bytes of a word are read: the table's formats `DEC_BYTE` and `DEC_EMPTY` (with the decoder state that
selects among the rows), `CONTENT_BYTE` and `FRAME`. The `ENC_STEP` and `CONTROL` rows have no bytes. -/
inductive Source where
  | rx (st : DecState)
  | content
  | frame
deriving DecidableEq, Repr

/-- The operation a received byte selects (30_encoding.md R52). -/
def decodeRx (st : DecState) (b : Byte) : Instr :=
  match st with
  | .idle => if b = END then .decIdleEnd else .decIdleSkip b
  | .inFrame =>
      if b = END then .decInframeEnd
      else if b = ESC then .decInframeEsc
      else .decInframeData b
  | .escaping =>
      if b = ESC_END then .decEscEnd
      else if b = ESC_ESC then .decEscEsc
      else .decEscBad b

/-- The operation a content byte selects (30_encoding.md R53). -/
def decodeContent (b : Byte) : Instr :=
  if b = END then .stuffEnd
  else if b = ESC then .stuffEsc
  else .stuffLit b

/-- De-stuffing of the interior of a frame, left to right, up to and including the closing `END` (30_encoding.md R50):
the content bytes and the bytes after the frame. -/
def destuff : List Byte → Except DecodeError (List Byte × List Byte)
  | [] => .error .notClosed
  | b :: rest =>
      if b = END then .ok ([], rest)
      else if b = ESC then
        match rest with
        | [] => .error .notClosed
        | c :: rest' =>
            if c = ESC_END then (destuff rest').map fun r => (END :: r.1, r.2)
            else if c = ESC_ESC then (destuff rest').map fun r => (ESC :: r.1, r.2)
            else .error .badEscape
      else (destuff rest).map fun r => (b :: r.1, r.2)

/-- Twelve content bytes as a datagram, neither fewer nor more: a frame is the wire form of exactly one datagram
(30_encoding.md R45). -/
def Datagram.ofExactly (a : List Byte) : Except DecodeError Datagram :=
  match Datagram.ofBytes a with
  | none => .error .tooShort
  | some d => if a.length = 12 then .ok d else .error .tooLong

/-- A frame read from the front of a byte sequence, and the bytes after it (30_encoding.md R45, R50). -/
def decodeFrame : List Byte → Except DecodeError (Datagram × List Byte)
  | [] => .error .noByte
  | b :: rest =>
      if b = END then
        match destuff rest with
        | .error e => .error e
        | .ok (a, after) => (Datagram.ofExactly a).map fun d => (d, after)
      else .error .noOpeningEnd

/-- The operation the front of a byte sequence selects at a source, and the bytes after its word. On the received
stream no byte is `DEC.NOP` (41_decoder.md R88). -/
def decode : Source → List Byte → Except DecodeError (Instr × List Byte)
  | .rx _, [] => .ok (.decNop, [])
  | .rx st, b :: rest => .ok (decodeRx st b, rest)
  | .content, [] => .error .noByte
  | .content, b :: rest => .ok (decodeContent b, rest)
  | .frame, bs => (decodeFrame bs).map fun r => (.frame r.1, r.2)

/-! ## Encoding -/

/-- Where an operation's word is read; `none` for the rows selected by no bytes (match `n/a` in the table). `DEC.NOP`
is selected in any decoder state; it is listed under `Idle`. -/
def sourceOf : Instr → Option Source
  | .decIdleEnd => some (.rx .idle)
  | .decIdleSkip _ => some (.rx .idle)
  | .decInframeEnd => some (.rx .inFrame)
  | .decInframeEsc => some (.rx .inFrame)
  | .decInframeData _ => some (.rx .inFrame)
  | .decEscEnd => some (.rx .escaping)
  | .decEscEsc => some (.rx .escaping)
  | .decEscBad _ => some (.rx .escaping)
  | .decNop => some (.rx .idle)
  | .stuffLit _ => some .content
  | .stuffEnd => some .content
  | .stuffEsc => some .content
  | .frame _ => some .frame
  | .encLoad _ => none
  | .encOpen => none
  | .encLit => none
  | .encEsc1 => none
  | .encEsc2 => none
  | .encClose => none
  | .encStall => none
  | .encWait => none
  | .reset => none

/-- The word of an operation: the byte of its row (`match` of the table, or the byte it carries), the whole frame for
`FRAME`, no byte for the rows that no byte selects. -/
def encode : Instr → List Byte
  | .decIdleEnd => [END]
  | .decIdleSkip b => [b]
  | .decInframeEnd => [END]
  | .decInframeEsc => [ESC]
  | .decInframeData b => [b]
  | .decEscEnd => [ESC_END]
  | .decEscEsc => [ESC_ESC]
  | .decEscBad b => [b]
  | .decNop => []
  | .stuffLit b => [b]
  | .stuffEnd => [END]
  | .stuffEsc => [ESC]
  | .frame d => encodeFrame d
  | .encLoad _ => []
  | .encOpen => []
  | .encLit => []
  | .encEsc1 => []
  | .encEsc2 => []
  | .encClose => []
  | .encStall => []
  | .encWait => []
  | .reset => []

/-! ## The table's words -/

/-- The first `n` bytes of a number, the byte of bits 7..0 first. -/
def wordBytes : Nat → Nat → List Byte
  | 0, _ => []
  | n + 1, w => BitVec.ofNat 8 w :: wordBytes n (w / 256)

/-- The decoder state in which a byte first has a row of its own in spec/opcode_table.json: `0xDB` in `InFrame`, `0xDC`
and `0xDD` in `Escaping`, `0xC0` and every other byte in `Idle`. A byte alone selects no operation (30_encoding.md
R52); this names the state the table's row states. DESIGN CHOICE, log 11. -/
def tableState (b : Byte) : DecState :=
  if b = ESC then .inFrame
  else if b = ESC_END then .escaping
  else if b = ESC_ESC then .escaping
  else .idle

/-- Where a table word of this many bytes is read: none or one on the received stream, more as a frame. -/
def tableSource : List Byte → Source
  | [] => .rx .idle
  | [b] => .rx (tableState b)
  | _ => .frame

/-- The operation the decoder reads from a table word of `nbits` bits numbered as spec/opcode_table.json numbers them:
bits 7..0 are the first byte on the wire. A word of one byte is read on the received stream in the state its row
states (log 11), a longer one as a whole frame. -/
def decodeTableWord (nbits w : Nat) : Option Instr :=
  let bs := wordBytes ((nbits + 7) / 8) w
  match decode (tableSource bs) bs with
  | .ok (i, []) => some i
  | _ => none

end Sys2Proof
end

