-- ==== Sys2Proof/Machine/State.lean ====
section
/-! DEFINITION. The state of the framer: the seven registers of spec/10_state.md R26, the output ports of the latest
step, and, as fields of the model's own, the environment's pending inputs, the function layer's latest result and the
two histories (R28). -/

namespace Sys2Proof.Machine

/-- The two framing errors; there is no third (60_exceptions.md R105, R106, R109). -/
inductive FramingError where
  /-- A closing `END` after fewer than 12 de-stuffed bytes (R105). -/
  | shortFrame
  /-- A byte other than `ESC_END`, `ESC_ESC` after `ESC` (R106). -/
  | badEscape
deriving DecidableEq, Repr

/-- The decoder's output events (60_exceptions.md R116). An error carries its kind only (R108). -/
inductive Event where
  /-- `DG(h ; p)`: a datagram is delivered. -/
  | datagram (d : Datagram)
  /-- `ERR(k)`: a framing error is raised. -/
  | error (k : FramingError)
deriving DecidableEq, Repr

/-- The input ports in one step (10_state.md R18, R21, R22). -/
structure Ports where
  rst : Bool
  rxValid : Bool
  rxData : Byte
  txDgValid : Bool
  txDgHeader : Header
  txDgPayload : Payload
  txReady : Bool
deriving DecidableEq, Repr

/-- What the environment does in one step of the model: one clock step with these input ports, or one call of the
function layer (40_encoder.md R59 to R62), which takes no clock step (log 5). -/
inductive Stimulus where
  | ports (p : Ports)
  | stuffByte (b : Byte)
  | encodeDatagram (d : Datagram)
deriving DecidableEq, Repr

/-- The decoder's output ports (10_state.md R19). `dg_header` and `dg_payload` are unspecified when `dg_valid = 0`, and
are then absent (93_implementation_defined.md U3, log 6). -/
structure DecOut where
  rxReady : Bool
  dgValid : Bool
  dgHeader : Option Header
  dgPayload : Option Payload
  errValid : Bool
  errKind : BitVec 2
deriving DecidableEq, Repr

/-- The encoder's output ports (10_state.md R21, R22). `tx_data` is unspecified when `tx_valid = 0`, and is then absent
(93_implementation_defined.md U3, log 6). -/
structure EncOut where
  txDgReady : Bool
  txValid : Bool
  txData : Option Byte
deriving DecidableEq, Repr

/-- The whole state. -/
structure State where
  /-- `dec_state` (10_state.md R8, R9). -/
  decState : DecState
  /-- `dec_count`, the field count, 0 to 12 (R10). -/
  decCount : Fin 13
  /-- `dec_buf[0..11]`, the accumulation buffer (R11). -/
  decBuf : Content
  /-- `enc_busy` (R13). -/
  encBusy : Bool
  /-- `enc_pos`, the position in the frame, 0 to 13 (R15). -/
  encPos : Fin 14
  /-- `enc_esc` (R16). -/
  encEsc : Bool
  /-- `enc_buf[0..11]`, the content of the datagram being emitted (R14). -/
  encBuf : Content
  /-- The decoder's output ports in the latest clock step (R19). -/
  decOut : DecOut
  /-- The encoder's output ports in the latest clock step (R21, R22). -/
  encOut : EncOut
  /-- MODEL: the bytes the latest call of the function layer returned (log 5). -/
  fnOut : List Byte
  /-- MODEL: what the environment will do, one entry a step (log 3). -/
  inputs : List Stimulus
  /-- MODEL: the events raised so far, oldest first; no rule reads it (R28, log 7). -/
  events : List Event
  /-- MODEL: the bytes transferred on `tx_data` so far, first on the wire first; no rule reads it (R28, log 7). -/
  wire : List Byte
deriving DecidableEq, Repr

/-- Nothing stops this machine: a framing error is "never fatal" (60_exceptions.md R104), no access can be out of range
(20_memory.md R35), and there is no other trap. So there is no fault (log 16). -/
inductive Fault where
deriving DecidableEq, Repr

/-- Why an operation is not run. -/
inductive Refusal where
  /-- `exec` raises it for an operation that has no meaning yet. Safe. -/
  | notModelled (mnemonic : String)
  /-- A meaning raises it when the condition of its rule does not hold of the registers or of its operand, so that the
  machine never takes this operation here (30_encoding.md R52, 40_encoder.md R65). `step` never raises it. Safe
  (log 10). -/
  | notSelected
deriving DecidableEq, Repr

/-- The state a reset step leaves (10_state.md R29, 70_reset_and_hazards.md R117, R118). The spec leaves both buffers'
content unspecified: zero is a DESIGN CHOICE (log 1). -/
def State.reset : State where
  decState := .idle
  decCount := 0
  decBuf := Vector.replicate 12 0
  encBusy := false
  encPos := 0
  encEsc := false
  encBuf := Vector.replicate 12 0
  decOut :=
    { rxReady := true, dgValid := false, dgHeader := none, dgPayload := none, errValid := false, errKind := 0 }
  encOut := { txDgReady := false, txValid := false, txData := none }
  fnOut := []
  inputs := []
  events := []
  wire := []

end Sys2Proof.Machine
end

