-- ==== Sys2Proof/Machine/Flags.lean ====
section
/-! DEFINITION. The framer has no flag register (spec/10_state.md R24): its only status is what the output ports show in
a step. This file computes every one of them, and the codes of the two registers the spec numbers. -/

namespace Sys2Proof.Machine

/-- The 2-bit code of `dec_state` (10_state.md R9). It is visible on no port. -/
def decStateCode : DecState → BitVec 2
  | .idle => 0
  | .inFrame => 1
  | .escaping => 2

/-- `err_kind` of an error (60_exceptions.md R107). -/
def errKindCode : FramingError → BitVec 2
  | .shortFrame => 1
  | .badEscape => 2

/-- The decoder's output ports in a step that raises this event or none (10_state.md R19, 41_decoder.md R90);
`rx_ready` is constantly 1 (R18). -/
def decOutOf : Option Event → DecOut
  | none =>
      { rxReady := true, dgValid := false, dgHeader := none, dgPayload := none, errValid := false, errKind := 0 }
  | some (.datagram d) =>
      { rxReady := true, dgValid := true, dgHeader := some d.header, dgPayload := some d.payload
        errValid := false, errKind := 0 }
  | some (.error k) =>
      { rxReady := true, dgValid := false, dgHeader := none, dgPayload := none
        errValid := true, errKind := errKindCode k }

/-- The encoder's output ports while it holds a datagram: `tx_valid = 1` with the byte, `tx_dg_ready = 0` (10_state.md
R21, R22). -/
def encOutBusy (b : Byte) : EncOut := { txDgReady := false, txValid := true, txData := some b }

/-- The encoder's output ports while it holds none: `tx_dg_ready = 1`, `tx_valid = 0` (10_state.md R21, R22). -/
def encOutFree : EncOut := { txDgReady := true, txValid := false, txData := none }

/-- The encoder's output ports in a reset step (70_reset_and_hazards.md R118). -/
def encOutReset : EncOut := { txDgReady := false, txValid := false, txData := none }

end Sys2Proof.Machine
end

