-- ==== Sys2Proof/Machine/Ops.lean ====
section
/-! DEFINITION. The operations the meanings share: buffer access (spec/00_scope.md 5.2), the decoder's bounded append
(spec/41_decoder.md R79), raising an event, the framing-error action (spec/60_exceptions.md R104), transferring a byte,
and running a meaning under its condition. -/

namespace Sys2Proof.Machine

/-- What a step or a meaning answers. -/
abbrev Result := Host.Outcome State Fault Refusal

/-! ## Buffers -/

/-- `MemRead(buf, i)` (00_scope.md 5.2). -/
def memRead (buf : Content) (i : Fin 12) : Byte := buf[i]

/-- `MemWrite(buf, i, v)` (00_scope.md 5.2). -/
def memWrite (buf : Content) (i : Fin 12) (v : Byte) : Content := buf.set i v

/-! ## The decoder -/

/-- `append(v)`: store one de-stuffed byte at index `dec_count`, and count it; at 12 nothing changes (41_decoder.md
R79). -/
def append (v : Byte) (s : State) : State :=
  if h : s.decCount.val < 12 then
    { s with decBuf := memWrite s.decBuf ⟨s.decCount.val, h⟩ v, decCount := ⟨s.decCount.val + 1, by omega⟩ }
  else s

/-- A decoder step with no event: all strobes are 0 (41_decoder.md R90). -/
def emitNone (s : State) : State := { s with decOut := decOutOf none }

/-- A decoder step that raises this event: the ports show it for this step (41_decoder.md R90), and the history
records it. -/
def emitEvent (e : Event) (s : State) : State :=
  { s with decOut := decOutOf (some e), events := s.events ++ [e] }

/-- `emit_dg(h, p)` (00_scope.md 5.2). -/
def emitDg (d : Datagram) (s : State) : State := emitEvent (.datagram d) s

/-- `raise K`, the framing-error action, all of it in the one step (60_exceptions.md R104): the event, the frame
discarded, the state machine in `Idle`. Nothing is saved and there is no return operation beside it: the next step is
an ordinary one from `Idle` (R113). -/
def raise (k : FramingError) (s : State) : State :=
  { emitEvent (.error k) s with decCount := 0, decState := .idle }

/-! ## The encoder -/

/-- `emit_tx(b)`: the byte stands on `tx_data` and the sink takes it in this step (10_state.md R22). -/
def emitTx (b : Byte) (s : State) : State :=
  { s with encOut := encOutBusy b, wire := s.wire ++ [b] }

/-- The byte stands on `tx_data` and the sink does not take it (10_state.md R22). -/
def holdTx (b : Byte) (s : State) : State := { s with encOut := encOutBusy b }

/-- The encoder holds no datagram at the start of the step and offers to take one (10_state.md R21). -/
def offerReady (s : State) : State := { s with encOut := encOutFree }

/-- `enc_pos <- enc_pos + 1`; no rule does it at 13 (41_decoder.md R134). -/
def advancePos (s : State) : State :=
  { s with encPos := if h : s.encPos.val < 13 then ⟨s.encPos.val + 1, by omega⟩ else s.encPos }

/-! ## The function layer -/

/-- A call of the function layer returns these bytes and touches no register and no port (40_encoder.md R59 to R62,
log 5). -/
def returnBytes (bs : List Byte) (s : State) : State := { s with fnOut := bs }

/-! ## Running a meaning -/

/-- An operation is taken exactly where the condition of its rule holds (log 10). -/
def guarded (cond : Bool) (next : State) : Result :=
  if cond then .next next else .refused .notSelected

/-- One meaning after another: the second runs from the state the first leaves. -/
def andThen (r : Result) (f : State → Result) : Result :=
  match r with
  | .next s => f s
  | .fault e => .fault e
  | .refused e => .refused e

end Sys2Proof.Machine
end

