-- ==== Sys2Proof/Machine/Operands.lean ====
section
/-! DEFINITION. What the operations read: the datagram on the input port, the datagram in the accumulation buffer, the
encoder's current content byte and the byte on `tx_data` (spec/40_encoder.md R65). -/

namespace Sys2Proof.Machine

open Config

/-- The datagram on `tx_dg_header`, `tx_dg_payload` (10_state.md R21). -/
def Ports.datagram (p : Ports) : Datagram := { header := p.txDgHeader, payload := p.txDgPayload }

/-- The datagram `DEC.INFRAME.END` reads from `dec_buf` (41_decoder.md R82). -/
def accumulated (s : State) : Datagram := Datagram.ofContent s.decBuf

/-- `cur`, the content byte `enc_buf[enc_pos - 1]`, a wire defined for `enc_pos` in 1 to 12 only (40_encoder.md R65,
41_decoder.md R134). -/
def cur (s : State) : Option Byte :=
  if h : 1 ≤ s.encPos.val ∧ s.encPos.val ≤ 12 then
    some (memRead s.encBuf ⟨s.encPos.val - 1, by omega⟩)
  else none

/-- A content byte that is sent as an escape pair (40_encoder.md R69). -/
def needsEscape (c : Byte) : Bool := c == END || c == ESC

/-- The second byte of the escape pair of a content byte (40_encoder.md R70). -/
def escapeSecond (c : Byte) : Byte := if c = END then ESC_END else ESC_ESC

/-- The byte on `tx_data` while `enc_busy = 1` (40_encoder.md R65): `END` at positions 0 and 13, else by the content
byte and `enc_esc`. For the unreachable case that R65 leaves out (`enc_esc = 1` with an ordinary byte) it is the byte
R70 transfers (log 9). -/
def txData (s : State) : Byte :=
  match cur s with
  | none => END
  | some c =>
      if s.encEsc then escapeSecond c
      else if needsEscape c then ESC
      else c

end Sys2Proof.Machine
end

