-- ==== Sys2Proof/Machine/Control.lean ====
section
/-! DEFINITION. The meaning of `RESET` (spec/70_reset_and_hazards.md R117, R118). -/

namespace Sys2Proof.Machine

/-- `RESET` (70_reset_and_hazards.md R117): the two buffers are not written (log 2). No byte is consumed or transferred
and no event is raised (R118); what has been transferred stays transferred (R119). -/
def execReset (s : State) : Result :=
  .next { s with decState := .idle, decCount := 0, encBusy := false, encPos := 0, encEsc := false
                 decOut := decOutOf none, encOut := encOutReset }

end Sys2Proof.Machine
end

