-- ==== Sys2Proof/Machine/Decoder.lean ====
section
/-! DEFINITION. The meanings of the nine decoder operations (spec/41_decoder.md R80 to R88). -/

namespace Sys2Proof.Machine

open Config

/-- `DEC.IDLE.END` (41_decoder.md R80): `dec_buf` is not cleared. -/
def execDecIdleEnd (s : State) : Result :=
  guarded (s.decState == .idle) { emitNone s with decState := .inFrame, decCount := 0 }

/-- `DEC.IDLE.SKIP` (41_decoder.md R81). -/
def execDecIdleSkip (b : Byte) (s : State) : Result :=
  guarded (s.decState == .idle && (Instr.decIdleSkip b).wf) (emitNone s)

/-- `DEC.INFRAME.END` (41_decoder.md R82): deliver the first 12 accumulated bytes, or raise `ShortFrame`. -/
def execDecInframeEnd (s : State) : Result :=
  guarded (s.decState == .inFrame)
    (if s.decCount = 12 then { emitDg (accumulated s) s with decCount := 0, decState := .idle }
     else raise .shortFrame s)

/-- `DEC.INFRAME.ESC` (41_decoder.md R83). -/
def execDecInframeEsc (s : State) : Result :=
  guarded (s.decState == .inFrame) { emitNone s with decState := .escaping }

/-- `DEC.INFRAME.DATA` (41_decoder.md R84). -/
def execDecInframeData (b : Byte) (s : State) : Result :=
  guarded (s.decState == .inFrame && (Instr.decInframeData b).wf) (append b (emitNone s))

/-- `DEC.ESC.END` (41_decoder.md R85): the stored byte is `END`. -/
def execDecEscEnd (s : State) : Result :=
  guarded (s.decState == .escaping) { append END (emitNone s) with decState := .inFrame }

/-- `DEC.ESC.ESC` (41_decoder.md R86): the stored byte is `ESC`. -/
def execDecEscEsc (s : State) : Result :=
  guarded (s.decState == .escaping) { append ESC (emitNone s) with decState := .inFrame }

/-- `DEC.ESC.BAD` (41_decoder.md R87): the offending byte is consumed, whatever it is. -/
def execDecEscBad (b : Byte) (s : State) : Result :=
  guarded (s.decState == .escaping && (Instr.decEscBad b).wf) (raise .badEscape s)

/-- `DEC.NOP` (41_decoder.md R88): taken in any state. -/
def execDecNop (s : State) : Result := .next (emitNone s)

end Sys2Proof.Machine
end

