-- ==== Sys2Proof/Machine/Encoder.lean ====
section
/-! DEFINITION. The meanings of the eight operations of the encoder's sequencer (spec/40_encoder.md R66 to R73). Where
two conditions could hold together in an unreachable state, those of spec/opcode_table.json decide: `ENC.ESC2` is taken
at positions 1 to 12 only (log 9). -/

namespace Sys2Proof.Machine

open Config

/-- `ENC.LOAD` (40_encoder.md R66): all 12 bytes in one step; no byte is transferred. -/
def execEncLoad (d : Datagram) (s : State) : Result :=
  guarded (!s.encBusy)
    { offerReady s with encBuf := d.content, encBusy := true, encPos := 0, encEsc := false }

/-- `ENC.OPEN` (40_encoder.md R67). -/
def execEncOpen (s : State) : Result :=
  guarded (s.encBusy && s.encPos == 0) { emitTx END s with encPos := 1 }

/-- `ENC.LIT` (40_encoder.md R68). -/
def execEncLit (s : State) : Result :=
  match cur s with
  | none => .refused .notSelected
  | some c => guarded (s.encBusy && !s.encEsc && !needsEscape c) (advancePos (emitTx c s))

/-- `ENC.ESC1` (40_encoder.md R69): `enc_pos` is unchanged. -/
def execEncEsc1 (s : State) : Result :=
  match cur s with
  | none => .refused .notSelected
  | some c => guarded (s.encBusy && !s.encEsc && needsEscape c) { emitTx ESC s with encEsc := true }

/-- `ENC.ESC2` (40_encoder.md R70). -/
def execEncEsc2 (s : State) : Result :=
  match cur s with
  | none => .refused .notSelected
  | some c => guarded (s.encBusy && s.encEsc) (advancePos { emitTx (escapeSecond c) s with encEsc := false })

/-- `ENC.CLOSE` (40_encoder.md R71): `enc_pos`, `enc_esc` and `enc_buf` keep their values. -/
def execEncClose (s : State) : Result :=
  guarded (s.encBusy && s.encPos == 13) { emitTx END s with encBusy := false }

/-- `ENC.STALL` (40_encoder.md R72). -/
def execEncStall (s : State) : Result := guarded s.encBusy (holdTx (txData s) s)

/-- `ENC.WAIT` (40_encoder.md R73). -/
def execEncWait (s : State) : Result := guarded (!s.encBusy) (offerReady s)

end Sys2Proof.Machine
end

