-- ==== Sys2Proof/Machine/Function.lean ====
section
/-! DEFINITION. The meanings of the function layer's operations (spec/40_encoder.md R59 to R62): each returns bytes and
changes no register (log 5). -/

namespace Sys2Proof.Machine

open Config

/-- `STUFF.LIT` (40_encoder.md R59). -/
def execStuffLit (b : Byte) (s : State) : Result := guarded (Instr.stuffLit b).wf (returnBytes [b] s)

/-- `STUFF.END` (40_encoder.md R60). -/
def execStuffEnd (s : State) : Result := .next (returnBytes [ESC, ESC_END] s)

/-- `STUFF.ESC` (40_encoder.md R61). -/
def execStuffEsc (s : State) : Result := .next (returnBytes [ESC, ESC_ESC] s)

/-- `FRAME` (40_encoder.md R62). -/
def execFrame (d : Datagram) (s : State) : Result := .next (returnBytes (encodeFrame d) s)

end Sys2Proof.Machine
end

