-- ==== Sys2Proof/Machine/Dispatch.lean ====
section
/-! DEFINITION. The meaning of every operation, one arm for each constructor of `Instr`. -/

namespace Sys2Proof.Machine

/-- What one operation does. -/
def exec (i : Instr) (s : State) : Host.Outcome State Fault Refusal :=
  match i with
  | .decIdleEnd => Sys2Proof.Machine.execDecIdleEnd s
  | .decIdleSkip b => Sys2Proof.Machine.execDecIdleSkip b s
  | .decInframeEnd => Sys2Proof.Machine.execDecInframeEnd s
  | .decInframeEsc => Sys2Proof.Machine.execDecInframeEsc s
  | .decInframeData b => Sys2Proof.Machine.execDecInframeData b s
  | .decEscEnd => Sys2Proof.Machine.execDecEscEnd s
  | .decEscEsc => Sys2Proof.Machine.execDecEscEsc s
  | .decEscBad b => Sys2Proof.Machine.execDecEscBad b s
  | .decNop => Sys2Proof.Machine.execDecNop s
  | .stuffLit b => Sys2Proof.Machine.execStuffLit b s
  | .stuffEnd => Sys2Proof.Machine.execStuffEnd s
  | .stuffEsc => Sys2Proof.Machine.execStuffEsc s
  | .frame d => Sys2Proof.Machine.execFrame d s
  | .encLoad d => Sys2Proof.Machine.execEncLoad d s
  | .encOpen => Sys2Proof.Machine.execEncOpen s
  | .encLit => Sys2Proof.Machine.execEncLit s
  | .encEsc1 => Sys2Proof.Machine.execEncEsc1 s
  | .encEsc2 => Sys2Proof.Machine.execEncEsc2 s
  | .encClose => Sys2Proof.Machine.execEncClose s
  | .encStall => Sys2Proof.Machine.execEncStall s
  | .encWait => Sys2Proof.Machine.execEncWait s
  | .reset => Sys2Proof.Machine.execReset s

end Sys2Proof.Machine
end

