-- ==== Sys2Proof/Machine/Select.lean ====
section
/-! DEFINITION. Which operation each agent takes in a clock step with `rst = 0` (spec/10_state.md R7): the decoder's from
`dec_state` and the received byte (spec/30_encoding.md R52), the encoder's from its registers and its input ports
(spec/40_encoder.md R65 to R73). -/

namespace Sys2Proof.Machine

/-- The decoder's operation (41_decoder.md R80 to R88). -/
def selectDec (p : Ports) (s : State) : Instr :=
  if p.rxValid then decodeRx s.decState p.rxData else .decNop

/-- The operation of an encoder that holds a datagram, with the sink ready (40_encoder.md R67 to R71). -/
def selectEmit (s : State) : Instr :=
  match cur s with
  | none => if s.encPos = 0 then .encOpen else .encClose
  | some c => if s.encEsc then .encEsc2 else if needsEscape c then .encEsc1 else .encLit

/-- The encoder's operation (40_encoder.md R66 to R73). -/
def selectEnc (p : Ports) (s : State) : Instr :=
  if s.encBusy then (if p.txReady then selectEmit s else .encStall)
  else if p.txDgValid then .encLoad p.datagram
  else .encWait

end Sys2Proof.Machine
end

