-- ==== Sys2Proof/Machine/Cycle.lean ====
section
/-! DEFINITION. What one entry of the environment's queue makes the machine do: a clock step of both agents
(spec/10_state.md R7) or a call of the function layer; and where the entry comes from. -/

namespace Sys2Proof.Machine

/-- An environment that presents nothing: no reset, no byte, no datagram, no ready sink (log 3). -/
def quietPorts : Ports where
  rst := false
  rxValid := false
  rxData := 0
  txDgValid := false
  txDgHeader := Vector.replicate 4 0
  txDgPayload := Vector.replicate 8 0
  txReady := false

/-- The entry the next step takes, and the state with it consumed. An empty queue is an environment that presents
nothing (log 3). -/
def nextStimulus (s : State) : Stimulus × State :=
  match s.inputs with
  | [] => (.ports quietPorts, s)
  | x :: rest => (x, { s with inputs := rest })

/-- One clock step (10_state.md R7): `RESET` when `rst = 1` (70_reset_and_hazards.md R118), else one operation of the
decoder and one of the encoder, each selected from the registers at the start of the step. The agents share nothing, so
the order in which the model runs the two is not observable (log 4). -/
def clockStep (p : Ports) (s : State) : Result :=
  if p.rst then exec .reset s
  else andThen (exec (selectDec p s) s) (fun t => exec (selectEnc p s) t)

/-- What a queue entry makes the machine do. -/
def perform (x : Stimulus) (s : State) : Result :=
  match x with
  | .ports p => clockStep p s
  | .stuffByte b => exec (decodeContent b) s
  | .encodeDatagram d => exec (.frame d) s

/-- The queue entry that presents a table word's bytes: no byte, one received byte, or a datagram's frame (log 11). -/
def stimulusOf (bs : List Byte) : Stimulus :=
  match bs with
  | [] => .ports quietPorts
  | [b] => .ports { quietPorts with rxValid := true, rxData := b }
  | _ =>
      match decodeFrame bs with
      | .ok (d, _) => .encodeDatagram d
      | .error _ => .ports quietPorts

/-- Place a table word where the next step takes it: its stimulus at the front of the queue and, for one received byte,
the decoder in the state that the byte's row states (log 11). -/
def placeWord (s : State) (nbits w : Nat) : State :=
  let bs := wordBytes ((nbits + 7) / 8) w
  let s' := { s with inputs := stimulusOf bs :: s.inputs }
  match bs with
  | [b] => { s' with decState := tableState b }
  | _ => s'

end Sys2Proof.Machine
end

