-- ==== Sys2Proof/Machine/Fields.lean ====
section
/-! DEFINITION. The layouts of the datagrams the framer carries unchanged (spec/00_scope.md R3 item 6,
spec/42_datagram_fields.md R101 to R103). No operation of the framer reads them (R100). -/

namespace Sys2Proof.Machine

/-- The indicators the document lists (42_datagram_fields.md R101). -/
inductive Indicator where
  | heartbeat | ctlerr | ctlreq
  | channel | command | imageHead | image | binaryHead | binary
deriving DecidableEq, Repr

/-- The value of `header[0]` for an indicator (42_datagram_fields.md R101). -/
def indicatorCode : Indicator → Byte
  | .heartbeat => 1
  | .ctlerr => 2
  | .ctlreq => 3
  | .channel => 10
  | .command => 11
  | .imageHead => 12
  | .image => 13
  | .binaryHead => 20
  | .binary => 21

/-- The control class of an indicator; the others are data (42_datagram_fields.md R101). -/
def indicatorIsControl : Indicator → Bool
  | .heartbeat => true
  | .ctlerr => true
  | .ctlreq => true
  | .channel => false
  | .command => false
  | .imageHead => false
  | .image => false
  | .binaryHead => false
  | .binary => false

/-- The indicator of a datagram, none for a value the document does not list (the framer carries it all the same,
42_datagram_fields.md R100). -/
def indicatorOf (d : Datagram) : Option Indicator :=
  [Indicator.heartbeat, .ctlerr, .ctlreq, .channel, .command, .imageHead, .image, .binaryHead, .binary].find?
    fun k => indicatorCode k == d.header[0]

/-- The header layouts the document gives (42_datagram_fields.md R102). It gives none for the control indicators
(91_not_in_source.md N12, log 13). -/
inductive HeaderLayout where
  /-- Index of the first channel carried. -/
  | channel (firstIdx : Byte)
  /-- Bytes of the command string remaining after this chunk, and its total length. -/
  | command (bytesRemaining totalLen : Byte)
  | imageHead
  /-- 24-bit sequence number. -/
  | image (seq : BitVec 24)
  | binaryHead
  /-- 24-bit sequence number. -/
  | binary (seq : BitVec 24)
deriving DecidableEq, Repr

/-- The indicator of a layout (42_datagram_fields.md R102). -/
def layoutIndicator : HeaderLayout → Indicator
  | .channel _ => .channel
  | .command _ _ => .command
  | .imageHead => .imageHead
  | .image _ => .image
  | .binaryHead => .binaryHead
  | .binary _ => .binary

/-- The four header bytes of a layout; a sequence number goes high byte first (42_datagram_fields.md R102). -/
def layoutHeader : HeaderLayout → Header
  | .channel firstIdx => #v[10, 0, 0, firstIdx]
  | .command bytesRemaining totalLen => #v[11, 0, bytesRemaining, totalLen]
  | .imageHead => #v[12, 0, 0, 0]
  | .image seq => #v[13, seq.extractLsb' 16 8, seq.extractLsb' 8 8, seq.extractLsb' 0 8]
  | .binaryHead => #v[20, 0, 0, 0]
  | .binary seq => #v[21, seq.extractLsb' 16 8, seq.extractLsb' 8 8, seq.extractLsb' 0 8]

/-- The layout a header has, none where its bytes are those of no layout of 42_datagram_fields.md R102 (log 13). -/
def headerLayout (h : Header) : Option HeaderLayout :=
  if h[0] = 10 ∧ h[1] = 0 ∧ h[2] = 0 then some (.channel h[3])
  else if h[0] = 11 ∧ h[1] = 0 then some (.command h[2] h[3])
  else if h = #v[12, 0, 0, 0] then some .imageHead
  else if h[0] = 13 then some (.image (h[1] ++ h[2] ++ h[3]))
  else if h = #v[20, 0, 0, 0] then some .binaryHead
  else if h[0] = 21 then some (.binary (h[1] ++ h[2] ++ h[3]))
  else none

/-- What the payload of an `IMAGEHEAD` datagram says (42_datagram_fields.md R103). The document gives the encoding byte
no value (91_not_in_source.md N13). -/
structure ImageSize where
  width : BitVec 16
  height : BitVec 16
  encoding : Byte
deriving DecidableEq, Repr

/-- The payload `[0, 0, 0, width_hi, width_lo, height_hi, height_lo, encoding]` (42_datagram_fields.md R103). -/
def imagePayload (m : ImageSize) : Payload :=
  #v[0, 0, 0, m.width.extractLsb' 8 8, m.width.extractLsb' 0 8,
     m.height.extractLsb' 8 8, m.height.extractLsb' 0 8, m.encoding]

/-- The fields of an `IMAGEHEAD` payload (42_datagram_fields.md R103). What the three reserved bytes hold is not looked
at (93_implementation_defined.md U12, log 14). -/
def imageSize (p : Payload) : ImageSize :=
  { width := p[3] ++ p[4], height := p[5] ++ p[6], encoding := p[7] }

end Sys2Proof.Machine
end

