-- ==== Sys2Proof/Machine/Stream.lean ====
section
/-! DEFINITION. The machine seen as functions of byte sequences: the decoder's step and stream functions
(spec/41_decoder.md R89, R91), written from their own table and not from the meanings, and what the encoder has still to
send (spec/40_encoder.md R74). The meanings do not use them; statements compare the two. -/

namespace Sys2Proof.Machine

open Config

/-- The decoder's registers (41_decoder.md R89). -/
structure DecRegs where
  state : DecState
  count : Fin 13
  buf : Content
deriving DecidableEq, Repr

/-- The decoder's registers of a state. -/
def decRegs (s : State) : DecRegs := { state := s.decState, count := s.decCount, buf := s.decBuf }

/-- The rows of 41_decoder.md R89 that store a byte: `c + 1` and `dec_buf[c] = v` below 12, unchanged at 12; the new
state is `InFrame`. -/
def decStore (r : DecRegs) (v : Byte) : DecRegs :=
  if h : r.count.val < 12 then
    { state := .inFrame, count := ⟨r.count.val + 1, by omega⟩, buf := r.buf.set r.count.val v }
  else { r with state := .inFrame }

/-- `dec_step`, the table of 41_decoder.md R89. -/
def decStep (r : DecRegs) (b : Byte) : DecRegs × Option Event :=
  match r.state with
  | .idle => if b = END then ({ r with state := .inFrame, count := 0 }, none) else (r, none)
  | .inFrame =>
      if b = END then
        ({ r with state := .idle, count := 0 },
         some (if r.count = 12 then .datagram (Datagram.ofContent r.buf) else .error .shortFrame))
      else if b = ESC then ({ r with state := .escaping }, none)
      else (decStore r b, none)
  | .escaping =>
      if b = ESC_END then (decStore r END, none)
      else if b = ESC_ESC then (decStore r ESC, none)
      else ({ r with state := .idle, count := 0 }, some (.error .badEscape))

/-- `deframe(s, w)`, the stream function (41_decoder.md R91). -/
def deframe (r : DecRegs) : List Byte → DecRegs × List Event
  | [] => (r, [])
  | b :: w => ((deframe (decStep r b).1 w).1, (decStep r b).2.toList ++ (deframe (decStep r b).1 w).2)

/-- The bytes the decoder is given by a sequence of clock steps (10_state.md R18). -/
def rxBytes (ps : List Ports) : List Byte := ps.filterMap fun p => if p.rxValid then some p.rxData else none

/-- How many of a sequence of clock steps have a ready sink (10_state.md R22). -/
def readyCount (ps : List Ports) : Nat := ps.countP (·.txReady)

/-- The bytes of the frame in progress that have still to be transferred (40_encoder.md R74). -/
def pendingBytes (s : State) : List Byte :=
  if s.encBusy then
    if s.encPos = 0 then encodeContent s.encBuf
    else (stuffAll (s.encBuf.toList.drop (s.encPos.val - 1))).drop (if s.encEsc then 1 else 0) ++ [END]
  else []

/-- The datagram accepted in a clock step with these input ports, if any (10_state.md R21). -/
def acceptedBy (p : Ports) (s : State) : List Datagram :=
  if !p.rst && !s.encBusy && p.txDgValid then [p.datagram] else []

/-- The frame of the datagram accepted in a clock step, empty where none is. -/
def acceptedFrame (p : Ports) (s : State) : List Byte := (acceptedBy p s).flatMap encodeFrame

/-- The datagram accepted in the next step: none where the front of the queue is no clock step. -/
def acceptedNext (s : State) : List Datagram :=
  match s.inputs with
  | .ports p :: _ => acceptedBy p s
  | _ => []

/-- Datagrams sent with one `END` between neighbours, `C0 f1 C0 f2 C0 ...` (70_reset_and_hazards.md R124). -/
def sharedDelimiterStream (ds : List Datagram) : List Byte :=
  END :: ds.flatMap fun d => stuffAll d.content.toList ++ [END]

/-- The first, third, fifth, ... entry of a list. -/
def oddPlaces {α : Type} : List α → List α
  | [] => []
  | [a] => [a]
  | a :: _ :: rest => a :: oddPlaces rest

end Sys2Proof.Machine
end

