-- ==== Sys2Proof/Safety.lean ====
section
/-! DEFINITION. What holds of the framer in every state it can reach (spec/10_state.md R12, R17, R19, R21, R22), the
phase of the decoder (spec/70_reset_and_hazards.md R121), and runs of the model. -/

namespace Sys2Proof

open Machine Config

/-- The decoder's invariant (10_state.md R12 (c)); (a) and (b) hold by the types of `dec_state` and `dec_count`. -/
def DecInv (s : State) : Prop := s.decState = .idle → s.decCount = 0

/-- The encoder's invariants (10_state.md R17 (b), (c)); (a) holds by the type of `enc_pos`. -/
def EncInv (s : State) : Prop :=
  (s.encEsc = true → s.encBusy = true ∧ ∃ c, cur s = some c ∧ (c = END ∨ c = ESC)) ∧
  (s.encBusy = false → s.encEsc = false)

/-- What the output ports show together (10_state.md R19, R21, R22; 60_exceptions.md R107, R112): `rx_ready = 1`, not
both strobes, a kind exactly with an error and never 3, data with its strobe, and never both handshakes of the
encoder. -/
def PortInv (s : State) : Prop :=
  s.decOut.rxReady = true ∧
  ¬ (s.decOut.dgValid = true ∧ s.decOut.errValid = true) ∧
  (s.decOut.dgValid = true ↔ s.decOut.dgHeader.isSome = true) ∧
  (s.decOut.dgValid = true ↔ s.decOut.dgPayload.isSome = true) ∧
  (s.decOut.errValid = true ↔ s.decOut.errKind ≠ 0) ∧
  s.decOut.errKind ≠ 3 ∧
  (s.encOut.txValid = true ↔ s.encOut.txData.isSome = true) ∧
  ¬ (s.encOut.txDgReady = true ∧ s.encOut.txValid = true)

/-- The invariant of the whole machine. -/
def Inv (s : State) : Prop := DecInv s ∧ EncInv s ∧ PortInv s

/-- The decoder is in phase at a point between two frames when it is in `Idle` there (70_reset_and_hazards.md R121). -/
def InPhase (r : DecRegs) : Prop := r.state = .idle

/-- `n` steps, stopping at the first that does not answer a next state. -/
def run : Nat → State → Result
  | 0, s => .next s
  | n + 1, s => andThen (step s) (run n)

/-- The datagrams accepted in the first `n` steps, in order of acceptance (20_memory.md R41). -/
def acceptedIn : Nat → State → List Datagram
  | 0, _ => []
  | n + 1, s =>
      acceptedNext s ++
        match step s with
        | .next t => acceptedIn n t
        | .fault _ => []
        | .refused _ => []

/-- A run is safe when none of its first `n` steps stops the machine. -/
def SafeRun (n : Nat) (s : State) : Prop := ∃ t, run n s = .next t

end Sys2Proof
end

