-- ==== Sys2Proof/Certificates/Slice0/Obligations.lean ====
section
/-! DEFINITION. The statements about the framer, each from the rules of spec/ its docstring names. An equation
`exec i s = .next { s with … }` says the result and the frame at once: every field that is not named, each byte of the
two buffers among them, is as before. Fields of the model's own through which a result is seen: `fnOut` for what a call
of the function layer returns (log 5), `decOut` and `encOut` for the ports of the step, where data that the spec leaves
unspecified is absent (93_implementation_defined.md U3, log 6), `events` and `wire` for what has been raised and
transferred (log 7), `inputs` for what the environment does (log 3). -/

open Sys2Proof Sys2Proof.Machine

/-! ## The function layer -/

/-- 40_encoder.md R59: `STUFF.LIT` runs on every content byte but `0xC0`, `0xDB`, and returns it unaltered. -/
def Obligations.OrdinaryByteIsReturnedVerbatim : Prop :=
  ∀ (b : Byte) (s : State), b ≠ 0xC0 → b ≠ 0xDB →
    decodeContent b = .stuffLit b ∧ exec (.stuffLit b) s = .next { s with fnOut := [b] }

/-- 40_encoder.md R60: the content byte `0xC0` selects `STUFF.END`, which returns `DB DC`. -/
def Obligations.DelimiterValueIsStuffed : Prop :=
  decodeContent 0xC0 = .stuffEnd ∧ ∀ s : State, exec .stuffEnd s = .next { s with fnOut := [0xDB, 0xDC] }

/-- 40_encoder.md R61: the content byte `0xDB` selects `STUFF.ESC`, which returns `DB DD`. -/
def Obligations.EscapeValueIsStuffed : Prop :=
  decodeContent 0xDB = .stuffEsc ∧ ∀ s : State, exec .stuffEsc s = .next { s with fnOut := [0xDB, 0xDD] }

/-- 30_encoding.md R47 and 40_encoder.md R62: the three lines of `stuff`, and `FRAME` returns `END`, the stuffed header
and payload bytes in index order, and `END`. -/
def Obligations.FrameIsDelimitedStuffedContent : Prop :=
  stuff 0xC0 = [0xDB, 0xDC] ∧ stuff 0xDB = [0xDB, 0xDD] ∧
  (∀ b : Byte, b ≠ 0xC0 → b ≠ 0xDB → stuff b = [b]) ∧
  ∀ (d : Datagram) (s : State),
    exec (.frame d) s = .next { s with fnOut := ([(0xC0 : Byte)]
        ++ stuff d.header[0] ++ stuff d.header[1] ++ stuff d.header[2] ++ stuff d.header[3]
        ++ stuff d.payload[0] ++ stuff d.payload[1] ++ stuff d.payload[2] ++ stuff d.payload[3]
        ++ stuff d.payload[4] ++ stuff d.payload[5] ++ stuff d.payload[6] ++ stuff d.payload[7] ++ [0xC0]) }

/-- 40_encoder.md R63, laws (a) to (e) of `encode`: its length, its only `END` bytes, what follows `ESC`, that it is
injective, and that no frame is a proper prefix of another. -/
def Obligations.EncodeLengthDelimitersAndInjectivity : Prop :=
  (∀ d : Datagram,
    (encodeFrame d).length = 14 + d.content.toList.countP (fun b => b == 0xC0 || b == 0xDB) ∧
    14 ≤ (encodeFrame d).length ∧ (encodeFrame d).length ≤ 26) ∧
  (∀ d : Datagram, ∃ interior, encodeFrame d = [0xC0] ++ interior ++ [0xC0] ∧ (0xC0 : Byte) ∉ interior) ∧
  (∀ (d : Datagram) (before after : List Byte), encodeFrame d = before ++ 0xDB :: after →
    ∃ rest, after = 0xDC :: rest ∨ after = 0xDD :: rest) ∧
  (∀ d d' : Datagram, encodeFrame d = encodeFrame d' → d = d') ∧
  (∀ d d' : Datagram, encodeFrame d <+: encodeFrame d' → encodeFrame d = encodeFrame d')

/-! ## Decoding and encoding of the operations' words -/

/-- Every well-formed operation that bytes select is read back from its word at its source, with any bytes after it
left unread; no byte on the received stream is `DEC.NOP` in every decoder state (30_encoding.md R45, R47, R50, R52,
R53; 41_decoder.md R88). -/
def Obligations.EveryWordDecodesToItsOperation : Prop :=
  (∀ (i : Instr) (src : Source) (after : List Byte), i.wf = true → sourceOf i = some src → i ≠ .decNop →
    decode src (encode i ++ after) = .ok (i, after)) ∧
  ∀ st : DecState, decode (.rx st) [] = .ok (.decNop, [])

/-- Whatever the decoder reads is well-formed, belongs to the source it was read at, and its word is the bytes that
were read: no two words have one meaning (30_encoding.md R45, R50, R52, R53). -/
def Obligations.EveryDecodedOperationHasThatWord : Prop :=
  ∀ (src : Source) (bs after : List Byte) (i : Instr), decode src bs = .ok (i, after) →
    i.wf = true ∧ encode i ++ after = bs ∧ (sourceOf i = some src ∨ i = .decNop ∧ bs = [])

/-- A few words of spec/opcode_table.json and of 95_test_vectors.md 2.2 (E1), written out, read as the table says. -/
def Obligations.TableWordsDecode : Prop :=
  decodeTableWord 8 0xC0 = some .decIdleEnd ∧ decodeTableWord 8 0xDB = some .decInframeEsc ∧
  decodeTableWord 8 0xDC = some .decEscEnd ∧ decodeTableWord 8 0xDD = some .decEscEsc ∧
  decodeTableWord 8 0x41 = some (.decIdleSkip 0x41) ∧ decodeTableWord 0 0 = some .decNop ∧
  decodeTableWord 112 0xC008070605040302010000000AC0 =
    some (.frame { header := #v[0x0A, 0, 0, 0], payload := #v[1, 2, 3, 4, 5, 6, 7, 8] }) ∧
  decodeContent 0xC0 = .stuffEnd ∧ decodeContent 0xDB = .stuffEsc ∧ decodeRx .inFrame 0xC0 = .decInframeEnd

/-- The eight rows of the decoder's operation map (30_encoding.md R52), and that in every state every byte selects
exactly one: of the operations whose word is that byte, the mapped one runs and no other does. That an operation outside
its condition does not run is the model's choice (log 10). -/
def Obligations.EveryByteSelectsExactlyOneOperation : Prop :=
  (∀ b : Byte, decodeRx .idle b = if b = 0xC0 then .decIdleEnd else .decIdleSkip b) ∧
  (∀ b : Byte, decodeRx .inFrame b =
    if b = 0xC0 then .decInframeEnd else if b = 0xDB then .decInframeEsc else .decInframeData b) ∧
  (∀ b : Byte, decodeRx .escaping b =
    if b = 0xDC then .decEscEnd else if b = 0xDD then .decEscEsc else .decEscBad b) ∧
  ∀ (s : State) (b : Byte) (i : Instr), (∃ st, sourceOf i = some (.rx st)) → encode i = [b] →
    ((∃ t, exec i s = .next t) ↔ i = decodeRx s.decState b)

/-! ## The decoder's operations -/

/-- 41_decoder.md R80: `DEC.IDLE.END`, exactly where it is taken and all it changes. -/
def Obligations.EndInIdleOpensAFrame : Prop :=
  (∀ s : State, s.decState = .idle →
    exec .decIdleEnd s = .next { s with decState := .inFrame, decCount := 0, decOut := decOutOf none }) ∧
  ∀ (p : Ports) (s : State),
    selectDec p s = .decIdleEnd ↔ p.rxValid = true ∧ s.decState = .idle ∧ p.rxData = 0xC0

/-- 41_decoder.md R81: `DEC.IDLE.SKIP` drops the byte; no register changes and no event is raised. -/
def Obligations.OtherByteInIdleIsDropped : Prop :=
  (∀ (s : State) (b : Byte), s.decState = .idle → b ≠ 0xC0 →
    exec (.decIdleSkip b) s = .next { s with decOut := decOutOf none }) ∧
  ∀ (p : Ports) (s : State), p.rxValid = true → s.decState = .idle → p.rxData ≠ 0xC0 →
    selectDec p s = .decIdleSkip p.rxData

/-- 41_decoder.md R82: `DEC.INFRAME.END` delivers the 12 accumulated bytes, or raises `ShortFrame` when there are
fewer; either way the decoder is in `Idle` afterwards. -/
def Obligations.EndInFrameDeliversOrRaisesShortFrame : Prop :=
  (∀ s : State, s.decState = .inFrame → s.decCount = 12 →
    ∃ d : Datagram,
      d.header = #v[s.decBuf[0], s.decBuf[1], s.decBuf[2], s.decBuf[3]] ∧
      d.payload = #v[s.decBuf[4], s.decBuf[5], s.decBuf[6], s.decBuf[7],
                     s.decBuf[8], s.decBuf[9], s.decBuf[10], s.decBuf[11]] ∧
      exec .decInframeEnd s = .next { s with
        decState := .idle, decCount := 0, decOut := decOutOf (some (.datagram d))
        events := s.events ++ [.datagram d] }) ∧
  (∀ s : State, s.decState = .inFrame → s.decCount ≠ 12 →
    exec .decInframeEnd s = .next { s with
      decState := .idle, decCount := 0, decOut := decOutOf (some (.error .shortFrame))
      events := s.events ++ [.error .shortFrame] }) ∧
  ∀ (p : Ports) (s : State), p.rxValid = true → s.decState = .inFrame → p.rxData = 0xC0 →
    selectDec p s = .decInframeEnd

/-- 41_decoder.md R83: `DEC.INFRAME.ESC` arms the escape at any count; the byte is not stored. -/
def Obligations.EscInFrameStartsAnEscape : Prop :=
  (∀ s : State, s.decState = .inFrame →
    exec .decInframeEsc s = .next { s with decState := .escaping, decOut := decOutOf none }) ∧
  ∀ (p : Ports) (s : State), p.rxValid = true → s.decState = .inFrame → p.rxData = 0xDB →
    selectDec p s = .decInframeEsc

/-- 41_decoder.md R79, R84: `DEC.INFRAME.DATA` stores the byte at index `dec_count` and counts it; at 12 it drops it. -/
def Obligations.DataByteIsAppendedOrDropped : Prop :=
  (∀ (s : State) (b : Byte) (h : s.decCount.val < 12), s.decState = .inFrame → b ≠ 0xC0 → b ≠ 0xDB →
    exec (.decInframeData b) s = .next { s with
      decBuf := s.decBuf.set s.decCount.val b h
      decCount := ⟨s.decCount.val + 1, Nat.succ_lt_succ h⟩, decOut := decOutOf none }) ∧
  (∀ (s : State) (b : Byte), s.decCount = 12 → s.decState = .inFrame → b ≠ 0xC0 → b ≠ 0xDB →
    exec (.decInframeData b) s = .next { s with decOut := decOutOf none }) ∧
  ∀ (p : Ports) (s : State), p.rxValid = true → s.decState = .inFrame → p.rxData ≠ 0xC0 → p.rxData ≠ 0xDB →
    selectDec p s = .decInframeData p.rxData

/-- 41_decoder.md R85: `DEC.ESC.END` appends `0xC0` (not `0xDC`) and returns to `InFrame`, at 12 too. -/
def Obligations.EscapedEndAppendsTheDelimiterValue : Prop :=
  (∀ (s : State) (h : s.decCount.val < 12), s.decState = .escaping →
    exec .decEscEnd s = .next { s with
      decState := .inFrame, decBuf := s.decBuf.set s.decCount.val 0xC0 h
      decCount := ⟨s.decCount.val + 1, Nat.succ_lt_succ h⟩, decOut := decOutOf none }) ∧
  (∀ s : State, s.decCount = 12 → s.decState = .escaping →
    exec .decEscEnd s = .next { s with decState := .inFrame, decOut := decOutOf none }) ∧
  ∀ (p : Ports) (s : State), p.rxValid = true → s.decState = .escaping → p.rxData = 0xDC →
    selectDec p s = .decEscEnd

/-- 41_decoder.md R86: `DEC.ESC.ESC` appends `0xDB` (not `0xDD`) and returns to `InFrame`, at 12 too. -/
def Obligations.EscapedEscAppendsTheEscapeValue : Prop :=
  (∀ (s : State) (h : s.decCount.val < 12), s.decState = .escaping →
    exec .decEscEsc s = .next { s with
      decState := .inFrame, decBuf := s.decBuf.set s.decCount.val 0xDB h
      decCount := ⟨s.decCount.val + 1, Nat.succ_lt_succ h⟩, decOut := decOutOf none }) ∧
  (∀ s : State, s.decCount = 12 → s.decState = .escaping →
    exec .decEscEsc s = .next { s with decState := .inFrame, decOut := decOutOf none }) ∧
  ∀ (p : Ports) (s : State), p.rxValid = true → s.decState = .escaping → p.rxData = 0xDD →
    selectDec p s = .decEscEsc

/-- 41_decoder.md R87: `DEC.ESC.BAD` raises `BadEscape` whatever the byte (`0xC0` and `0xDB` among them) and whatever
the count; the frame is discarded. The rest of the broken frame is dropped in `Idle`, and its closing `END` opens a
frame. -/
def Obligations.OtherByteAfterEscRaisesBadEscape : Prop :=
  (∀ (s : State) (b : Byte), s.decState = .escaping → b ≠ 0xDC → b ≠ 0xDD →
    exec (.decEscBad b) s = .next { s with
      decState := .idle, decCount := 0, decOut := decOutOf (some (.error .badEscape))
      events := s.events ++ [.error .badEscape] }) ∧
  (∀ (p : Ports) (s : State), p.rxValid = true → s.decState = .escaping → p.rxData ≠ 0xDC → p.rxData ≠ 0xDD →
    selectDec p s = .decEscBad p.rxData) ∧
  ∀ (r : DecRegs) (x : Byte) (g : List Byte), r.state = .escaping → x ≠ 0xDC → x ≠ 0xDD → Config.END ∉ g →
    deframe r (x :: g) = ({ r with state := .idle, count := 0 }, [.error .badEscape]) ∧
    deframe r (x :: g ++ [Config.END]) = ({ r with state := .inFrame, count := 0 }, [.error .badEscape])

/-- 41_decoder.md R88: `DEC.NOP` is taken in any state when no byte is presented, and changes no register. -/
def Obligations.NoByteChangesNoDecoderRegister : Prop :=
  (∀ s : State, exec .decNop s = .next { s with decOut := decOutOf none }) ∧
  ∀ (p : Ports) (s : State), p.rxValid = false → selectDec p s = .decNop

/-- 10_state.md R19, 41_decoder.md R90, 60_exceptions.md R107: what the decoder's output ports show for no event, for a
datagram and for each error; data ports are given only with their strobe. -/
def Obligations.DecoderPortsShowTheEvent : Prop :=
  decOutOf none =
    { rxReady := true, dgValid := false, dgHeader := none, dgPayload := none, errValid := false, errKind := 0 } ∧
  (∀ d : Datagram, decOutOf (some (.datagram d)) =
    { rxReady := true, dgValid := true, dgHeader := some d.header, dgPayload := some d.payload
      errValid := false, errKind := 0 }) ∧
  decOutOf (some (.error .shortFrame)) =
    { rxReady := true, dgValid := false, dgHeader := none, dgPayload := none, errValid := true, errKind := 1 } ∧
  decOutOf (some (.error .badEscape)) =
    { rxReady := true, dgValid := false, dgHeader := none, dgPayload := none, errValid := true, errKind := 2 }

/-- 41_decoder.md R97 (its derived clause), 10_state.md R10: from count 0, any number of appends leaves the count at the
number of bytes, at most 12, and the buffer's counted part the first 12 of them; nothing else changes. -/
def Obligations.AppendsKeepTheFirstTwelveBytes : Prop :=
  ∀ (a : List Byte) (s t : State), s.decCount = 0 → a.foldl (fun u v => append v u) s = t →
    t.decCount.val = min a.length 12 ∧
    t.decBuf.toList.take t.decCount.val = a.take 12 ∧
    t.decBuf.toList.drop t.decCount.val = s.decBuf.toList.drop t.decCount.val ∧
    t = { s with decBuf := t.decBuf, decCount := t.decCount }

/-- 41_decoder.md R90, 60_exceptions.md R116: an operation that raises an event is `DEC.INFRAME.END` or `DEC.ESC.BAD`,
raises one, shows it on the ports, and leaves the decoder in `Idle` with count 0. -/
def Obligations.OnlyTwoOperationsRaiseEvents : Prop :=
  ∀ (i : Instr) (s t : State), exec i s = .next t → t.events ≠ s.events →
    (i = .decInframeEnd ∨ ∃ b, i = .decEscBad b) ∧ t.decState = .idle ∧ t.decCount = 0 ∧
    ∃ e, t.events = s.events ++ [e] ∧ t.decOut = decOutOf (some e)

/-! ## The encoder's operations -/

/-- 40_encoder.md R65, its table of `tx_data` (the unreachable case it leaves out is not spoken of). -/
def Obligations.TxDataFollowsPositionAndEscape : Prop :=
  (∀ s : State, s.encPos = 0 → txData s = 0xC0) ∧
  (∀ s : State, s.encPos = 13 → txData s = 0xC0) ∧
  ∀ (s : State) (h : s.encPos.val - 1 < 12), 1 ≤ s.encPos.val →
    (s.encEsc = true → s.encBuf[s.encPos.val - 1] = 0xC0 → txData s = 0xDC) ∧
    (s.encEsc = true → s.encBuf[s.encPos.val - 1] = 0xDB → txData s = 0xDD) ∧
    (s.encEsc = false → s.encBuf[s.encPos.val - 1] = 0xC0 ∨ s.encBuf[s.encPos.val - 1] = 0xDB → txData s = 0xDB) ∧
    (s.encEsc = false → s.encBuf[s.encPos.val - 1] ≠ 0xC0 → s.encBuf[s.encPos.val - 1] ≠ 0xDB →
      txData s = s.encBuf[s.encPos.val - 1])

/-- 40_encoder.md R66: `ENC.LOAD` takes all 12 bytes, header then payload, in one step and transfers none; while the
encoder is busy no datagram is taken. -/
def Obligations.LoadTakesTheWholeDatagram : Prop :=
  (∀ (s : State) (d : Datagram), s.encBusy = false →
    exec (.encLoad d) s = .next { s with
      encBuf := #v[d.header[0], d.header[1], d.header[2], d.header[3],
                   d.payload[0], d.payload[1], d.payload[2], d.payload[3],
                   d.payload[4], d.payload[5], d.payload[6], d.payload[7]]
      encBusy := true, encPos := 0, encEsc := false
      encOut := { txDgReady := true, txValid := false, txData := none } }) ∧
  (∀ (p : Ports) (s : State), s.encBusy = false → p.txDgValid = true →
    selectEnc p s = .encLoad { header := p.txDgHeader, payload := p.txDgPayload }) ∧
  ∀ (p : Ports) (s : State) (d : Datagram), s.encBusy = true → selectEnc p s ≠ .encLoad d

/-- 40_encoder.md R67: `ENC.OPEN` transfers `0xC0`; the position becomes 1. -/
def Obligations.OpenTransfersTheOpeningDelimiter : Prop :=
  (∀ s : State, s.encBusy = true → s.encPos = 0 →
    exec .encOpen s = .next { s with encPos := 1, encOut := encOutBusy 0xC0, wire := s.wire ++ [0xC0] }) ∧
  ∀ (p : Ports) (s : State), s.encBusy = true → s.encPos = 0 → p.txReady = true → selectEnc p s = .encOpen

/-- 40_encoder.md R68: `ENC.LIT` transfers the content byte; the position advances by 1. -/
def Obligations.LitTransfersTheContentByte : Prop :=
  ∀ (s : State) (h : s.encPos.val - 1 < 12) (h' : s.encPos.val + 1 < 14), 1 ≤ s.encPos.val → s.encBusy = true →
    s.encEsc = false → s.encBuf[s.encPos.val - 1] ≠ 0xC0 → s.encBuf[s.encPos.val - 1] ≠ 0xDB →
    exec .encLit s = .next { s with
      encPos := ⟨s.encPos.val + 1, h'⟩, encOut := encOutBusy s.encBuf[s.encPos.val - 1]
      wire := s.wire ++ [s.encBuf[s.encPos.val - 1]] } ∧
    ∀ p : Ports, p.txReady = true → selectEnc p s = .encLit

/-- 40_encoder.md R69: `ENC.ESC1` transfers `0xDB`; the position is unchanged. -/
def Obligations.EscOneTransfersTheIntroducer : Prop :=
  ∀ (s : State) (h : s.encPos.val - 1 < 12), 1 ≤ s.encPos.val → s.encBusy = true → s.encEsc = false →
    s.encBuf[s.encPos.val - 1] = 0xC0 ∨ s.encBuf[s.encPos.val - 1] = 0xDB →
    exec .encEsc1 s = .next { s with encEsc := true, encOut := encOutBusy 0xDB, wire := s.wire ++ [0xDB] } ∧
    ∀ p : Ports, p.txReady = true → selectEnc p s = .encEsc1

/-- 40_encoder.md R70: `ENC.ESC2` transfers `0xDC` for a content byte `0xC0` and `0xDD` for any other; the position
advances by 1. Positions 1 to 12 are the condition of the rule's row in spec/opcode_table.json. -/
def Obligations.EscTwoTransfersTheSecondByte : Prop :=
  ∀ (s : State) (h : s.encPos.val - 1 < 12) (h' : s.encPos.val + 1 < 14), 1 ≤ s.encPos.val → s.encBusy = true →
    s.encEsc = true →
    (s.encBuf[s.encPos.val - 1] = 0xC0 → exec .encEsc2 s = .next { s with
      encEsc := false, encPos := ⟨s.encPos.val + 1, h'⟩, encOut := encOutBusy 0xDC, wire := s.wire ++ [0xDC] }) ∧
    (s.encBuf[s.encPos.val - 1] ≠ 0xC0 → exec .encEsc2 s = .next { s with
      encEsc := false, encPos := ⟨s.encPos.val + 1, h'⟩, encOut := encOutBusy 0xDD, wire := s.wire ++ [0xDD] }) ∧
    ∀ p : Ports, p.txReady = true → selectEnc p s = .encEsc2

/-- 40_encoder.md R71: `ENC.CLOSE` transfers `0xC0` and releases the encoder; position, escape and buffer stay. In the
step after it a datagram that is offered is accepted, and no byte is transferred either way. -/
def Obligations.CloseTransfersTheClosingDelimiter : Prop :=
  (∀ s : State, s.encBusy = true → s.encPos = 13 →
    exec .encClose s = .next { s with encBusy := false, encOut := encOutBusy 0xC0, wire := s.wire ++ [0xC0] }) ∧
  (∀ (p : Ports) (s : State), s.encBusy = true → s.encPos = 13 → p.txReady = true → selectEnc p s = .encClose) ∧
  ∀ (p : Ports) (s t : State), exec .encClose s = .next t →
    selectEnc p t = if p.txDgValid then .encLoad p.datagram else .encWait

/-- 40_encoder.md R72: `ENC.STALL` changes no register; `tx_valid = 1` with the byte of R65, not transferred. -/
def Obligations.StallHoldsTheByte : Prop :=
  (∀ s : State, s.encBusy = true →
    exec .encStall s = .next { s with encOut := { txDgReady := false, txValid := true, txData := some (txData s) } }) ∧
  ∀ (p : Ports) (s : State), s.encBusy = true → p.txReady = false → selectEnc p s = .encStall

/-- 40_encoder.md R73: `ENC.WAIT` changes no register; `tx_dg_ready = 1`, `tx_valid = 0`. -/
def Obligations.WaitChangesNoEncoderRegister : Prop :=
  (∀ s : State, s.encBusy = false →
    exec .encWait s = .next { s with encOut := { txDgReady := true, txValid := false, txData := none } }) ∧
  ∀ (p : Ports) (s : State), s.encBusy = false → p.txDgValid = false → selectEnc p s = .encWait

/-- 60_exceptions.md R116: an operation that transfers a byte is one of the encoder's five emit operations, finds the
encoder busy, and transfers the byte that stands on `tx_data`; `tx_dg_ready` is 0. -/
def Obligations.OnlyEmitOperationsTransferBytes : Prop :=
  ∀ (i : Instr) (s t : State), exec i s = .next t → t.wire ≠ s.wire →
    (i = .encOpen ∨ i = .encLit ∨ i = .encEsc1 ∨ i = .encEsc2 ∨ i = .encClose) ∧ s.encBusy = true ∧
    t.wire = s.wire ++ [txData s] ∧ t.encOut = { txDgReady := false, txValid := true, txData := some (txData s) }

/-! ## Reset, the step, and what the agents may touch -/

/-- `RESET` in every state, and that a step with `rst = 1` is `RESET` whatever the other inputs are
(70_reset_and_hazards.md R117), with the ports of a reset step (R118; unspecified data is absent, log 6). That the two
buffers are as before is the model's reading of R117's "not written" (log 2). -/
def Obligations.ResetClearsTheControlRegisters : Prop :=
  (∀ s : State, exec .reset s = .next { s with
    decState := .idle, decCount := 0, encBusy := false, encPos := 0, encEsc := false
    decOut := { rxReady := true, dgValid := false, dgHeader := none, dgPayload := none, errValid := false, errKind := 0 }
    encOut := { txDgReady := false, txValid := false, txData := none } }) ∧
  ∀ (s : State) (p : Ports) (rest : List Stimulus), s.inputs = .ports p :: rest → p.rst = true →
    step s = exec .reset { s with inputs := rest }

/-- 10_state.md R29: the registers after reset, and, from any state with these registers (whatever the buffers hold),
what the ports show in the first step with `rst = 0`, whatever its other inputs are. -/
def Obligations.ResetValuesAndFirstPorts : Prop :=
  (State.reset.decState = .idle ∧ State.reset.decCount = 0 ∧ State.reset.encBusy = false ∧
    State.reset.encPos = 0 ∧ State.reset.encEsc = false) ∧
  ∀ (s : State) (p : Ports) (rest : List Stimulus),
    s.decState = .idle → s.decCount = 0 → s.encBusy = false → s.encPos = 0 → s.encEsc = false →
    s.inputs = .ports p :: rest → p.rst = false →
    ∃ t, step s = .next t ∧
      t.decOut.rxReady = true ∧ t.decOut.dgValid = false ∧ t.decOut.errValid = false ∧ t.decOut.errKind = 0 ∧
      t.encOut.txDgReady = true ∧ t.encOut.txValid = false

/-- 10_state.md R7: what a step runs. A clock step with `rst = 0` runs the operation the decoder reads from the received
byte and then the one the encoder selects; with `rst = 1` it runs `RESET`; a call of the function layer runs the
operation its content byte or datagram selects. Nothing is presented where the queue is empty (the model's choice, log
3; running the decoder's operation first is log 4). -/
def Obligations.StepRunsTheSelectedOperations : Prop :=
  (∀ (s : State) (p : Ports) (rest : List Stimulus), s.inputs = .ports p :: rest → p.rst = false →
    ∃ t u, exec (selectDec p s) { s with inputs := rest } = .next t ∧ exec (selectEnc p s) t = .next u ∧
      step s = .next u) ∧
  (∀ (p : Ports) (s : State), p.rxValid = true → decode (.rx s.decState) [p.rxData] = .ok (selectDec p s, [])) ∧
  (∀ (s : State) (p : Ports) (rest : List Stimulus), s.inputs = .ports p :: rest → p.rst = true →
    step s = exec .reset { s with inputs := rest }) ∧
  (∀ (s : State) (b : Byte) (i : Instr) (rest : List Stimulus), s.inputs = .stuffByte b :: rest →
    decode .content [b] = .ok (i, []) → step s = exec i { s with inputs := rest }) ∧
  (∀ (s : State) (d : Datagram) (rest : List Stimulus), s.inputs = .encodeDatagram d :: rest →
    step s = exec (.frame d) { s with inputs := rest }) ∧
  ∀ s : State, s.inputs = [] →
    ∃ t u, exec .decNop s = .next t ∧ exec (if s.encBusy then .encStall else .encWait) t = .next u ∧
      step s = .next u

/-- Every step from every state answers a next state, for any number of steps: no framing error is fatal
(60_exceptions.md R104, 10_state.md R7). -/
def Obligations.EveryRunIsSafe : Prop := ∀ (n : Nat) (s : State), SafeRun n s

/-- 10_state.md R20: with `rst = 0`, a step without a byte changes no decoder register and raises no event, and a step
in which the encoder is neither offered a datagram it can take nor rid of a byte changes no encoder register and
transfers nothing. -/
def Obligations.EmptyStepsChangeNothing : Prop :=
  ∀ (s : State) (p : Ports) (rest : List Stimulus), s.inputs = .ports p :: rest → p.rst = false →
    ∃ t, step s = .next t ∧
      (p.rxValid = false → decRegs t = decRegs s ∧ t.decOut = decOutOf none ∧ t.events = s.events) ∧
      (s.encBusy = false ∧ p.txDgValid = false ∨ s.encBusy = true ∧ p.txReady = false →
        t.encBusy = s.encBusy ∧ t.encPos = s.encPos ∧ t.encEsc = s.encEsc ∧ t.encBuf = s.encBuf ∧ t.wire = s.wire)

/-- 10_state.md R18, R21, R22, 40_encoder.md R77, 70_reset_and_hazards.md R118: inputs that the rules say are ignored
have no effect. Two steps from the same state agree when both are reset steps, or when neither is, the bytes presented
agree, and so do what the encoder looks at: the sink while it is busy, the offer while it is not. -/
def Obligations.IgnoredInputsHaveNoEffect : Prop :=
  ∀ (s : State) (p q : Ports) (rest : List Stimulus), p.rst = q.rst →
    (p.rst = false → p.rxValid = q.rxValid ∧ (p.rxValid = true → p.rxData = q.rxData) ∧
      (s.encBusy = true → p.txReady = q.txReady) ∧
      (s.encBusy = false → p.txDgValid = q.txDgValid ∧
        (p.txDgValid = true → p.txDgHeader = q.txDgHeader ∧ p.txDgPayload = q.txDgPayload))) →
    step { s with inputs := .ports p :: rest } = step { s with inputs := .ports q :: rest }

/-- 20_memory.md R42: no operation of the decoder is ordered before or after one of the encoder: either order of any
two gives the same answer from every state. -/
def Obligations.AgentsOperationsCommute : Prop :=
  ∀ (i j : Instr) (s : State), (∃ st, sourceOf i = some (.rx st)) → sourceOf j = none → j ≠ .reset →
    andThen (exec i s) (exec j) = andThen (exec j s) (exec i)

/-- 10_state.md R7: what an agent does depends on its own registers and its own input ports only. -/
def Obligations.AgentsSeeOnlyTheirOwnState : Prop :=
  ∀ (s s' t t' : State) (p p' : Ports) (rest rest' : List Stimulus),
    s.inputs = .ports p :: rest → s'.inputs = .ports p' :: rest' → p.rst = p'.rst →
    step s = .next t → step s' = .next t' →
    (decRegs s = decRegs s' → p.rxValid = p'.rxValid → p.rxData = p'.rxData →
      decRegs t = decRegs t' ∧ t.decOut = t'.decOut) ∧
    (s.encBusy = s'.encBusy → s.encPos = s'.encPos → s.encEsc = s'.encEsc → s.encBuf = s'.encBuf →
      p.txDgValid = p'.txDgValid → p.datagram = p'.datagram → p.txReady = p'.txReady →
      t.encBusy = t'.encBusy ∧ t.encPos = t'.encPos ∧ t.encEsc = t'.encEsc ∧ t.encBuf = t'.encBuf ∧
        t.encOut = t'.encOut)

/-- 60_exceptions.md R133, 10_state.md R11, R14: the decoder's registers change by its own operations and `RESET` only,
`dec_buf` by the three that append; the encoder's by its own and `RESET` only, `enc_buf` by `ENC.LOAD`. -/
def Obligations.RegistersChangeOnlyByTheirOwnOperations : Prop :=
  ∀ (i : Instr) (s t : State), exec i s = .next t →
    (decRegs t ≠ decRegs s → (∃ st, sourceOf i = some (.rx st)) ∨ i = .reset) ∧
    (t.decBuf ≠ s.decBuf → (∃ b, i = .decInframeData b) ∨ i = .decEscEnd ∨ i = .decEscEsc) ∧
    ((t.encBusy ≠ s.encBusy ∨ t.encPos ≠ s.encPos ∨ t.encEsc ≠ s.encEsc) → sourceOf i = none) ∧
    (t.encBuf ≠ s.encBuf → ∃ d, i = .encLoad d)

/-! ## Invariants -/

/-- The invariant holds right after reset (10_state.md R12, R17, R29). -/
def Obligations.InvariantHoldsAtReset : Prop := Inv State.reset

/-- Every step keeps the invariant (10_state.md R12, R17): `Idle` has count 0; an escape is half sent only while the
encoder is busy, at a position whose content byte needs one; and the output ports fit together (10_state.md R19, R21,
R22, 60_exceptions.md R107). -/
def Obligations.EveryStepKeepsTheInvariant : Prop :=
  ∀ s t : State, Inv s → step s = .next t → Inv t

/-! ## The decoder as a function of the byte stream -/

/-- 41_decoder.md R89: a clock step with a byte does to the decoder's registers, ports and history what `dec_step`
does. -/
def Obligations.ByteStepIsDecStep : Prop :=
  ∀ (s : State) (p : Ports) (rest : List Stimulus), s.inputs = .ports p :: rest → p.rst = false → p.rxValid = true →
    ∃ t, step s = .next t ∧ decRegs t = (decStep (decRegs s) p.rxData).1 ∧
      t.decOut = decOutOf (decStep (decRegs s) p.rxData).2 ∧
      t.events = s.events ++ (decStep (decRegs s) p.rxData).2.toList

/-- 41_decoder.md R91, 20_memory.md R40, 10_state.md R20: a run of clock steps without reset does to the decoder what
`deframe` of the bytes presented does, whatever the encoder does and however many empty steps lie between the bytes. -/
def Obligations.RunIsDeframe : Prop :=
  ∀ (ps : List Ports) (s : State) (later : List Stimulus), s.inputs = ps.map .ports ++ later →
    (∀ p ∈ ps, p.rst = false) →
    ∃ t, run ps.length s = .next t ∧ t.inputs = later ∧
      decRegs t = (deframe (decRegs s) (rxBytes ps)).1 ∧
      t.events = s.events ++ (deframe (decRegs s) (rxBytes ps)).2

/-- 41_decoder.md R91: `deframe` of a concatenation. -/
def Obligations.DeframeOfConcatenation : Prop :=
  ∀ (r : DecRegs) (u v : List Byte),
    deframe r (u ++ v) = ((deframe (deframe r u).1 v).1, (deframe r u).2 ++ (deframe (deframe r u).1 v).2)

/-- 41_decoder.md R94: `Idle` absorbs every sequence without `END`. -/
def Obligations.IdleAbsorbsNonDelimiters : Prop :=
  ∀ (r : DecRegs) (g : List Byte), r.state = .idle → Config.END ∉ g → deframe r g = (r, [])

/-- 41_decoder.md R92: the round trip, whatever the buffer held before, with the event in the step of the frame's last
byte. -/
def Obligations.EncodedDatagramIsDelivered : Prop :=
  ∀ (d : Datagram) (buf : Content),
    deframe { state := .idle, count := 0, buf := buf } (encodeFrame d) =
      ({ state := .idle, count := 0, buf := d.content }, [.datagram d]) ∧
    (deframe { state := .idle, count := 0, buf := buf } (encodeFrame d).dropLast).2 = []

/-- 41_decoder.md R93: a sequence of frames, with filler without `END` before, between and after them, is delivered in
order and leaves the decoder in `Idle`. -/
def Obligations.FrameSequenceIsDeliveredInOrder : Prop :=
  ∀ (l : List (Datagram × List Byte)) (g : List Byte) (buf : Content),
    Config.END ∉ g → (∀ x ∈ l, Config.END ∉ x.2) →
    (deframe { state := .idle, count := 0, buf := buf } (g ++ l.flatMap fun x => encodeFrame x.1 ++ x.2)).1.state = .idle ∧
    (deframe { state := .idle, count := 0, buf := buf } (g ++ l.flatMap fun x => encodeFrame x.1 ++ x.2)).2 =
      l.map fun x => .datagram x.1

/-- 41_decoder.md R95, 70_reset_and_hazards.md R121: out of phase, a well-formed frame gives one event that is not its
own (`ShortFrame`, the stale datagram, or `BadEscape`) and leaves the decoder in `InFrame(0)`; from there every further
frame is lost with one `ShortFrame`. -/
def Obligations.OutOfPhaseEveryFrameIsLost : Prop :=
  (∀ (r : DecRegs) (d : Datagram), r.state = .inFrame → r.count ≠ 12 →
    deframe r (encodeFrame d) = ({ r with count := 0 }, [.error .shortFrame])) ∧
  (∀ (r : DecRegs) (d : Datagram), r.state = .inFrame → r.count = 12 →
    deframe r (encodeFrame d) = ({ r with count := 0 }, [.datagram (Datagram.ofContent r.buf)])) ∧
  (∀ (r : DecRegs) (d : Datagram), r.state = .escaping →
    deframe r (encodeFrame d) = ({ r with state := .inFrame, count := 0 }, [.error .badEscape])) ∧
  ∀ (r : DecRegs) (ds : List Datagram), r.state = .inFrame → r.count = 0 →
    deframe r (ds.flatMap encodeFrame) = (r, List.replicate ds.length (.error .shortFrame))

/-- 70_reset_and_hazards.md R122 (b), 90_conflicts.md C3: a bad escape in mid-frame whose byte is not the frame's
closing `END` costs every following frame, each with one `ShortFrame`. -/
def Obligations.BadEscapeInMidFrameLosesAllThatFollows : Prop :=
  ∀ (r : DecRegs) (x : Byte) (g : List Byte) (ds : List Datagram),
    r.state = .escaping → x ≠ Config.ESC_END → x ≠ Config.ESC_ESC → Config.END ∉ g →
    deframe r (x :: g ++ [Config.END] ++ ds.flatMap encodeFrame) =
      ({ r with state := .inFrame, count := 0 },
       .error .badEscape :: List.replicate ds.length (.error .shortFrame))

/-- 70_reset_and_hazards.md R123 (a): one extra `END` between frames restores phase, and the next frame is delivered. -/
def Obligations.OneExtraEndRestoresPhase : Prop :=
  ∀ (r : DecRegs) (d : Datagram), r.state = .inFrame → ∃ e : Event,
    (r.count ≠ 12 → e = .error .shortFrame) ∧ (r.count = 12 → e = .datagram (Datagram.ofContent r.buf)) ∧
    deframe r [Config.END] = ({ r with state := .idle, count := 0 }, [e]) ∧
    deframe r (Config.END :: encodeFrame d) =
      ({ state := .idle, count := 0, buf := d.content }, [e, .datagram d])

/-- 30_encoding.md R51, 41_decoder.md R96, R97: the frame of any number of content bytes gives the datagram of the first
12, or `ShortFrame` when there are fewer. -/
def Obligations.ShortAndLongFrames : Prop :=
  ∀ (a : List Byte) (r : DecRegs), r.state = .idle →
    (deframe r ([Config.END] ++ stuffAll a ++ [Config.END])).1.state = .idle ∧
    (deframe r ([Config.END] ++ stuffAll a ++ [Config.END])).1.count = 0 ∧
    (deframe r ([Config.END] ++ stuffAll a ++ [Config.END])).2 =
      [((Datagram.ofBytes a).map Event.datagram).getD (.error .shortFrame)]

/-- 70_reset_and_hazards.md R124: of any number of frames that share one `END` between neighbours, the first, third,
fifth, ... datagram is delivered and every second one is lost, with no error event; after an even number of them the
last `END` has opened a frame. -/
def Obligations.SharedDelimiterLosesEverySecondFrame : Prop :=
  ∀ (ds : List Datagram) (buf : Content),
    (deframe { state := .idle, count := 0, buf := buf } (sharedDelimiterStream ds)).2 =
      (oddPlaces ds).map Event.datagram ∧
    (deframe { state := .idle, count := 0, buf := buf } (sharedDelimiterStream ds)).1.state =
      (if ds.length % 2 = 1 then .idle else .inFrame) ∧
    (deframe { state := .idle, count := 0, buf := buf } (sharedDelimiterStream ds)).1.count = 0

/-- 70_reset_and_hazards.md R129: events are at least 2 bytes apart and datagrams at least 14, since every event leaves
the decoder in `Idle` and from `Idle` no event comes sooner. -/
def Obligations.EventsAreSpaced : Prop :=
  (∀ (r : DecRegs) (b : Byte), (decStep r b).2 ≠ none → (decStep r b).1.state = .idle) ∧
  ∀ (r : DecRegs) (w : List Byte), r.state = .idle →
    (w.length < 2 → (deframe r w).2 = []) ∧
    (w.length < 14 → ∀ d, Event.datagram d ∉ (deframe r w).2)

/-! ## The sequencer and the function `encode` -/

/-- 40_encoder.md R74, one step of it, and R72: in a step with `rst = 0`, what has been transferred and what is still to
come of the frame in progress stays the same, but for the frame of a datagram accepted in it; one byte is transferred
when the encoder is busy and the sink ready, none otherwise. -/
def Obligations.EveryStepKeepsTheStreamOwed : Prop :=
  ∀ (s t : State) (p : Ports) (rest : List Stimulus), EncInv s → s.inputs = .ports p :: rest → p.rst = false →
    step s = .next t →
    t.wire ++ pendingBytes t = s.wire ++ pendingBytes s ++ acceptedFrame p s ∧
    t.wire.length = s.wire.length + (if s.encBusy && p.txReady then 1 else 0)

/-- 40_encoder.md R74: from a free encoder that accepts a datagram, the bytes transferred by any steps with `rst = 0`
that follow are the first bytes of `encode` of it, as many as there were steps with a ready sink, up to the whole frame;
until the whole frame is out the encoder stays busy. -/
def Obligations.SequencerEmitsEncode : Prop :=
  ∀ (s : State) (p : Ports) (ps : List Ports) (later : List Stimulus),
    s.encBusy = false → s.inputs = .ports p :: (ps.map .ports ++ later) →
    p.rst = false → p.txDgValid = true → (∀ q ∈ ps, q.rst = false) →
    readyCount ps ≤ (encodeFrame p.datagram).length →
    ∃ t, run (ps.length + 1) s = .next t ∧
      t.wire = s.wire ++ (encodeFrame p.datagram).take (readyCount ps) ∧
      (readyCount ps < (encodeFrame p.datagram).length → t.encBusy = true)

/-- 20_memory.md R41, 40_encoder.md R76: from a free encoder, over any run without reset, the bytes transferred and
those still owed are the whole frames of the datagrams accepted along the run, in order of acceptance. -/
def Obligations.TransmittedStreamIsWholeFrames : Prop :=
  ∀ (ps : List Ports) (s : State) (later : List Stimulus), EncInv s → s.encBusy = false →
    s.inputs = ps.map .ports ++ later → (∀ p ∈ ps, p.rst = false) →
    ∃ t : State, run ps.length s = .next t ∧
      t.wire ++ pendingBytes t = s.wire ++ (acceptedIn ps.length s).flatMap encodeFrame

/-! ## The datagrams the framer carries -/

/-- 42_datagram_fields.md R101: the nine indicator values and their two classes; none of the values is ever stuffed. -/
def Obligations.IndicatorsAreNeverStuffed : Prop :=
  (∀ k : Indicator, stuff (indicatorCode k) = [indicatorCode k]) ∧
  indicatorCode .heartbeat = 1 ∧ indicatorCode .ctlerr = 2 ∧ indicatorCode .ctlreq = 3 ∧
  indicatorCode .channel = 10 ∧ indicatorCode .command = 11 ∧ indicatorCode .imageHead = 12 ∧
  indicatorCode .image = 13 ∧ indicatorCode .binaryHead = 20 ∧ indicatorCode .binary = 21 ∧
  ∀ k : Indicator, indicatorIsControl k = true ↔ k = .heartbeat ∨ k = .ctlerr ∨ k = .ctlreq

/-- 42_datagram_fields.md R102, R103: the bytes of every header layout and of every `IMAGEHEAD` payload, multi-byte
numbers high byte first; each is read back from its bytes, and a layout's first byte is its indicator's value. What bytes
of no layout read as is the model's choice (logs 13, 14) and is not spoken of. -/
def Obligations.LayoutsAreReadBack : Prop :=
  (∀ firstIdx, layoutHeader (.channel firstIdx) = #v[10, 0, 0, firstIdx]) ∧
  (∀ bytesRemaining totalLen,
    layoutHeader (.command bytesRemaining totalLen) = #v[11, 0, bytesRemaining, totalLen]) ∧
  layoutHeader .imageHead = #v[12, 0, 0, 0] ∧ layoutHeader .binaryHead = #v[20, 0, 0, 0] ∧
  (∀ seq, layoutHeader (.image seq) =
    #v[13, BitVec.ofNat 8 (seq.toNat / 65536), BitVec.ofNat 8 (seq.toNat / 256), BitVec.ofNat 8 seq.toNat]) ∧
  (∀ seq, layoutHeader (.binary seq) =
    #v[21, BitVec.ofNat 8 (seq.toNat / 65536), BitVec.ofNat 8 (seq.toNat / 256), BitVec.ofNat 8 seq.toNat]) ∧
  (∀ m, imagePayload m =
    #v[0, 0, 0, BitVec.ofNat 8 (m.width.toNat / 256), BitVec.ofNat 8 m.width.toNat,
       BitVec.ofNat 8 (m.height.toNat / 256), BitVec.ofNat 8 m.height.toNat, m.encoding]) ∧
  (∀ l : HeaderLayout, headerLayout (layoutHeader l) = some l) ∧
  (∀ (l : HeaderLayout) (p : Payload),
    indicatorOf { header := layoutHeader l, payload := p } = some (layoutIndicator l)) ∧
  ∀ m : ImageSize, imageSize (imagePayload m) = m
end

