-- ==== Sys2Proof/Laws/Config.lean ====
section
/-! SUPPORT. The four framing constants are pairwise different (spec/00_scope.md R5), in the form `simp` uses. -/

namespace Sys2Proof.Config

@[simp] theorem END_ne_ESC : ¬ (END = ESC) := by decide
@[simp] theorem END_ne_ESC_END : ¬ (END = ESC_END) := by decide
@[simp] theorem END_ne_ESC_ESC : ¬ (END = ESC_ESC) := by decide
@[simp] theorem ESC_ne_END : ¬ (ESC = END) := by decide
@[simp] theorem ESC_ne_ESC_END : ¬ (ESC = ESC_END) := by decide
@[simp] theorem ESC_ne_ESC_ESC : ¬ (ESC = ESC_ESC) := by decide
@[simp] theorem ESC_END_ne_END : ¬ (ESC_END = END) := by decide
@[simp] theorem ESC_END_ne_ESC : ¬ (ESC_END = ESC) := by decide
@[simp] theorem ESC_END_ne_ESC_ESC : ¬ (ESC_END = ESC_ESC) := by decide
@[simp] theorem ESC_ESC_ne_END : ¬ (ESC_ESC = END) := by decide
@[simp] theorem ESC_ESC_ne_ESC : ¬ (ESC_ESC = ESC) := by decide
@[simp] theorem ESC_ESC_ne_ESC_END : ¬ (ESC_ESC = ESC_END) := by decide

end Sys2Proof.Config
end

