-- ==== Sys2Proof/Laws/State.lean ====
section
/-! SUPPORT. What each shared operation does to each field of the state, one lemma a field, so that no later proof
unfolds a record update; and that what reads one field does not see the others. -/

namespace Sys2Proof.Machine

/-! ### append -/

@[simp] theorem append_decState (v : Byte) (s : State) : (append v s).decState = s.decState := by
  unfold append; split <;> rfl
@[simp] theorem append_encBusy (v : Byte) (s : State) : (append v s).encBusy = s.encBusy := by
  unfold append; split <;> rfl
@[simp] theorem append_encPos (v : Byte) (s : State) : (append v s).encPos = s.encPos := by
  unfold append; split <;> rfl
@[simp] theorem append_encEsc (v : Byte) (s : State) : (append v s).encEsc = s.encEsc := by
  unfold append; split <;> rfl
@[simp] theorem append_encBuf (v : Byte) (s : State) : (append v s).encBuf = s.encBuf := by
  unfold append; split <;> rfl
@[simp] theorem append_decOut (v : Byte) (s : State) : (append v s).decOut = s.decOut := by
  unfold append; split <;> rfl
@[simp] theorem append_encOut (v : Byte) (s : State) : (append v s).encOut = s.encOut := by
  unfold append; split <;> rfl
@[simp] theorem append_fnOut (v : Byte) (s : State) : (append v s).fnOut = s.fnOut := by
  unfold append; split <;> rfl
@[simp] theorem append_inputs (v : Byte) (s : State) : (append v s).inputs = s.inputs := by
  unfold append; split <;> rfl
@[simp] theorem append_events (v : Byte) (s : State) : (append v s).events = s.events := by
  unfold append; split <;> rfl
@[simp] theorem append_wire (v : Byte) (s : State) : (append v s).wire = s.wire := by
  unfold append; split <;> rfl

/-! ### emitNone -/

@[simp] theorem emitNone_decState (s : State) : (emitNone s).decState = s.decState := rfl
@[simp] theorem emitNone_decCount (s : State) : (emitNone s).decCount = s.decCount := rfl
@[simp] theorem emitNone_decBuf (s : State) : (emitNone s).decBuf = s.decBuf := rfl
@[simp] theorem emitNone_encBusy (s : State) : (emitNone s).encBusy = s.encBusy := rfl
@[simp] theorem emitNone_encPos (s : State) : (emitNone s).encPos = s.encPos := rfl
@[simp] theorem emitNone_encEsc (s : State) : (emitNone s).encEsc = s.encEsc := rfl
@[simp] theorem emitNone_encBuf (s : State) : (emitNone s).encBuf = s.encBuf := rfl
@[simp] theorem emitNone_decOut (s : State) : (emitNone s).decOut = decOutOf none := rfl
@[simp] theorem emitNone_encOut (s : State) : (emitNone s).encOut = s.encOut := rfl
@[simp] theorem emitNone_fnOut (s : State) : (emitNone s).fnOut = s.fnOut := rfl
@[simp] theorem emitNone_inputs (s : State) : (emitNone s).inputs = s.inputs := rfl
@[simp] theorem emitNone_events (s : State) : (emitNone s).events = s.events := rfl
@[simp] theorem emitNone_wire (s : State) : (emitNone s).wire = s.wire := rfl

/-! ### emitEvent -/

@[simp] theorem emitEvent_decState (e : Event) (s : State) : (emitEvent e s).decState = s.decState := rfl
@[simp] theorem emitEvent_decCount (e : Event) (s : State) : (emitEvent e s).decCount = s.decCount := rfl
@[simp] theorem emitEvent_decBuf (e : Event) (s : State) : (emitEvent e s).decBuf = s.decBuf := rfl
@[simp] theorem emitEvent_encBusy (e : Event) (s : State) : (emitEvent e s).encBusy = s.encBusy := rfl
@[simp] theorem emitEvent_encPos (e : Event) (s : State) : (emitEvent e s).encPos = s.encPos := rfl
@[simp] theorem emitEvent_encEsc (e : Event) (s : State) : (emitEvent e s).encEsc = s.encEsc := rfl
@[simp] theorem emitEvent_encBuf (e : Event) (s : State) : (emitEvent e s).encBuf = s.encBuf := rfl
@[simp] theorem emitEvent_decOut (e : Event) (s : State) : (emitEvent e s).decOut = decOutOf (some e) := rfl
@[simp] theorem emitEvent_encOut (e : Event) (s : State) : (emitEvent e s).encOut = s.encOut := rfl
@[simp] theorem emitEvent_fnOut (e : Event) (s : State) : (emitEvent e s).fnOut = s.fnOut := rfl
@[simp] theorem emitEvent_inputs (e : Event) (s : State) : (emitEvent e s).inputs = s.inputs := rfl
@[simp] theorem emitEvent_events (e : Event) (s : State) : (emitEvent e s).events = s.events ++ [e] := rfl
@[simp] theorem emitEvent_wire (e : Event) (s : State) : (emitEvent e s).wire = s.wire := rfl

/-! ### emitDg -/

@[simp] theorem emitDg_decState (d : Datagram) (s : State) : (emitDg d s).decState = s.decState := rfl
@[simp] theorem emitDg_decCount (d : Datagram) (s : State) : (emitDg d s).decCount = s.decCount := rfl
@[simp] theorem emitDg_decBuf (d : Datagram) (s : State) : (emitDg d s).decBuf = s.decBuf := rfl
@[simp] theorem emitDg_encBusy (d : Datagram) (s : State) : (emitDg d s).encBusy = s.encBusy := rfl
@[simp] theorem emitDg_encPos (d : Datagram) (s : State) : (emitDg d s).encPos = s.encPos := rfl
@[simp] theorem emitDg_encEsc (d : Datagram) (s : State) : (emitDg d s).encEsc = s.encEsc := rfl
@[simp] theorem emitDg_encBuf (d : Datagram) (s : State) : (emitDg d s).encBuf = s.encBuf := rfl
@[simp] theorem emitDg_decOut (d : Datagram) (s : State) : (emitDg d s).decOut = decOutOf (some (.datagram d)) := rfl
@[simp] theorem emitDg_encOut (d : Datagram) (s : State) : (emitDg d s).encOut = s.encOut := rfl
@[simp] theorem emitDg_fnOut (d : Datagram) (s : State) : (emitDg d s).fnOut = s.fnOut := rfl
@[simp] theorem emitDg_inputs (d : Datagram) (s : State) : (emitDg d s).inputs = s.inputs := rfl
@[simp] theorem emitDg_events (d : Datagram) (s : State) : (emitDg d s).events = s.events ++ [.datagram d] := rfl
@[simp] theorem emitDg_wire (d : Datagram) (s : State) : (emitDg d s).wire = s.wire := rfl

/-! ### raise -/

@[simp] theorem raise_decState (k : FramingError) (s : State) : (raise k s).decState = .idle := rfl
@[simp] theorem raise_decCount (k : FramingError) (s : State) : (raise k s).decCount = 0 := rfl
@[simp] theorem raise_decBuf (k : FramingError) (s : State) : (raise k s).decBuf = s.decBuf := rfl
@[simp] theorem raise_encBusy (k : FramingError) (s : State) : (raise k s).encBusy = s.encBusy := rfl
@[simp] theorem raise_encPos (k : FramingError) (s : State) : (raise k s).encPos = s.encPos := rfl
@[simp] theorem raise_encEsc (k : FramingError) (s : State) : (raise k s).encEsc = s.encEsc := rfl
@[simp] theorem raise_encBuf (k : FramingError) (s : State) : (raise k s).encBuf = s.encBuf := rfl
@[simp] theorem raise_decOut (k : FramingError) (s : State) : (raise k s).decOut = decOutOf (some (.error k)) := rfl
@[simp] theorem raise_encOut (k : FramingError) (s : State) : (raise k s).encOut = s.encOut := rfl
@[simp] theorem raise_fnOut (k : FramingError) (s : State) : (raise k s).fnOut = s.fnOut := rfl
@[simp] theorem raise_inputs (k : FramingError) (s : State) : (raise k s).inputs = s.inputs := rfl
@[simp] theorem raise_events (k : FramingError) (s : State) : (raise k s).events = s.events ++ [.error k] := rfl
@[simp] theorem raise_wire (k : FramingError) (s : State) : (raise k s).wire = s.wire := rfl

/-! ### emitTx -/

@[simp] theorem emitTx_decState (b : Byte) (s : State) : (emitTx b s).decState = s.decState := rfl
@[simp] theorem emitTx_decCount (b : Byte) (s : State) : (emitTx b s).decCount = s.decCount := rfl
@[simp] theorem emitTx_decBuf (b : Byte) (s : State) : (emitTx b s).decBuf = s.decBuf := rfl
@[simp] theorem emitTx_encBusy (b : Byte) (s : State) : (emitTx b s).encBusy = s.encBusy := rfl
@[simp] theorem emitTx_encPos (b : Byte) (s : State) : (emitTx b s).encPos = s.encPos := rfl
@[simp] theorem emitTx_encEsc (b : Byte) (s : State) : (emitTx b s).encEsc = s.encEsc := rfl
@[simp] theorem emitTx_encBuf (b : Byte) (s : State) : (emitTx b s).encBuf = s.encBuf := rfl
@[simp] theorem emitTx_decOut (b : Byte) (s : State) : (emitTx b s).decOut = s.decOut := rfl
@[simp] theorem emitTx_encOut (b : Byte) (s : State) : (emitTx b s).encOut = encOutBusy b := rfl
@[simp] theorem emitTx_fnOut (b : Byte) (s : State) : (emitTx b s).fnOut = s.fnOut := rfl
@[simp] theorem emitTx_inputs (b : Byte) (s : State) : (emitTx b s).inputs = s.inputs := rfl
@[simp] theorem emitTx_events (b : Byte) (s : State) : (emitTx b s).events = s.events := rfl
@[simp] theorem emitTx_wire (b : Byte) (s : State) : (emitTx b s).wire = s.wire ++ [b] := rfl

/-! ### holdTx -/

@[simp] theorem holdTx_decState (b : Byte) (s : State) : (holdTx b s).decState = s.decState := rfl
@[simp] theorem holdTx_decCount (b : Byte) (s : State) : (holdTx b s).decCount = s.decCount := rfl
@[simp] theorem holdTx_decBuf (b : Byte) (s : State) : (holdTx b s).decBuf = s.decBuf := rfl
@[simp] theorem holdTx_encBusy (b : Byte) (s : State) : (holdTx b s).encBusy = s.encBusy := rfl
@[simp] theorem holdTx_encPos (b : Byte) (s : State) : (holdTx b s).encPos = s.encPos := rfl
@[simp] theorem holdTx_encEsc (b : Byte) (s : State) : (holdTx b s).encEsc = s.encEsc := rfl
@[simp] theorem holdTx_encBuf (b : Byte) (s : State) : (holdTx b s).encBuf = s.encBuf := rfl
@[simp] theorem holdTx_decOut (b : Byte) (s : State) : (holdTx b s).decOut = s.decOut := rfl
@[simp] theorem holdTx_encOut (b : Byte) (s : State) : (holdTx b s).encOut = encOutBusy b := rfl
@[simp] theorem holdTx_fnOut (b : Byte) (s : State) : (holdTx b s).fnOut = s.fnOut := rfl
@[simp] theorem holdTx_inputs (b : Byte) (s : State) : (holdTx b s).inputs = s.inputs := rfl
@[simp] theorem holdTx_events (b : Byte) (s : State) : (holdTx b s).events = s.events := rfl
@[simp] theorem holdTx_wire (b : Byte) (s : State) : (holdTx b s).wire = s.wire := rfl

/-! ### offerReady -/

@[simp] theorem offerReady_decState (s : State) : (offerReady s).decState = s.decState := rfl
@[simp] theorem offerReady_decCount (s : State) : (offerReady s).decCount = s.decCount := rfl
@[simp] theorem offerReady_decBuf (s : State) : (offerReady s).decBuf = s.decBuf := rfl
@[simp] theorem offerReady_encBusy (s : State) : (offerReady s).encBusy = s.encBusy := rfl
@[simp] theorem offerReady_encPos (s : State) : (offerReady s).encPos = s.encPos := rfl
@[simp] theorem offerReady_encEsc (s : State) : (offerReady s).encEsc = s.encEsc := rfl
@[simp] theorem offerReady_encBuf (s : State) : (offerReady s).encBuf = s.encBuf := rfl
@[simp] theorem offerReady_decOut (s : State) : (offerReady s).decOut = s.decOut := rfl
@[simp] theorem offerReady_encOut (s : State) : (offerReady s).encOut = encOutFree := rfl
@[simp] theorem offerReady_fnOut (s : State) : (offerReady s).fnOut = s.fnOut := rfl
@[simp] theorem offerReady_inputs (s : State) : (offerReady s).inputs = s.inputs := rfl
@[simp] theorem offerReady_events (s : State) : (offerReady s).events = s.events := rfl
@[simp] theorem offerReady_wire (s : State) : (offerReady s).wire = s.wire := rfl

/-! ### advancePos -/

@[simp] theorem advancePos_decState (s : State) : (advancePos s).decState = s.decState := rfl
@[simp] theorem advancePos_decCount (s : State) : (advancePos s).decCount = s.decCount := rfl
@[simp] theorem advancePos_decBuf (s : State) : (advancePos s).decBuf = s.decBuf := rfl
@[simp] theorem advancePos_encBusy (s : State) : (advancePos s).encBusy = s.encBusy := rfl
@[simp] theorem advancePos_encEsc (s : State) : (advancePos s).encEsc = s.encEsc := rfl
@[simp] theorem advancePos_encBuf (s : State) : (advancePos s).encBuf = s.encBuf := rfl
@[simp] theorem advancePos_decOut (s : State) : (advancePos s).decOut = s.decOut := rfl
@[simp] theorem advancePos_encOut (s : State) : (advancePos s).encOut = s.encOut := rfl
@[simp] theorem advancePos_fnOut (s : State) : (advancePos s).fnOut = s.fnOut := rfl
@[simp] theorem advancePos_inputs (s : State) : (advancePos s).inputs = s.inputs := rfl
@[simp] theorem advancePos_events (s : State) : (advancePos s).events = s.events := rfl
@[simp] theorem advancePos_wire (s : State) : (advancePos s).wire = s.wire := rfl

/-! ### returnBytes -/

@[simp] theorem returnBytes_decState (bs : List Byte) (s : State) : (returnBytes bs s).decState = s.decState := rfl
@[simp] theorem returnBytes_decCount (bs : List Byte) (s : State) : (returnBytes bs s).decCount = s.decCount := rfl
@[simp] theorem returnBytes_decBuf (bs : List Byte) (s : State) : (returnBytes bs s).decBuf = s.decBuf := rfl
@[simp] theorem returnBytes_encBusy (bs : List Byte) (s : State) : (returnBytes bs s).encBusy = s.encBusy := rfl
@[simp] theorem returnBytes_encPos (bs : List Byte) (s : State) : (returnBytes bs s).encPos = s.encPos := rfl
@[simp] theorem returnBytes_encEsc (bs : List Byte) (s : State) : (returnBytes bs s).encEsc = s.encEsc := rfl
@[simp] theorem returnBytes_encBuf (bs : List Byte) (s : State) : (returnBytes bs s).encBuf = s.encBuf := rfl
@[simp] theorem returnBytes_decOut (bs : List Byte) (s : State) : (returnBytes bs s).decOut = s.decOut := rfl
@[simp] theorem returnBytes_encOut (bs : List Byte) (s : State) : (returnBytes bs s).encOut = s.encOut := rfl
@[simp] theorem returnBytes_fnOut (bs : List Byte) (s : State) : (returnBytes bs s).fnOut = bs := rfl
@[simp] theorem returnBytes_inputs (bs : List Byte) (s : State) : (returnBytes bs s).inputs = s.inputs := rfl
@[simp] theorem returnBytes_events (bs : List Byte) (s : State) : (returnBytes bs s).events = s.events := rfl
@[simp] theorem returnBytes_wire (bs : List Byte) (s : State) : (returnBytes bs s).wire = s.wire := rfl

end Sys2Proof.Machine
end

