-- ==== Sys2Proof/Laws/Ops.lean ====
section
/-! SUPPORT. One lemma for each shared operation that says once what it can do, for the provers to cite instead of
unfolding it. -/

namespace Sys2Proof.Machine

open Config

/-! ### Buffers -/

/-- A read after a write to the same index gives the byte written. -/
@[simp] theorem memRead_memWrite_same (buf : Content) (i : Fin 12) (v : Byte) : memRead (memWrite buf i v) i = v := by
  simp [memRead, memWrite]

/-- A write leaves every other index alone. -/
theorem memRead_memWrite_other (buf : Content) (i j : Fin 12) (v : Byte) (h : i ≠ j) :
    memRead (memWrite buf i v) j = memRead buf j := by
  have h' : i.val ≠ j.val := fun e => h (Fin.ext e)
  simp [memRead, memWrite, h']

/-- `append` below 12. -/
theorem append_of_lt (v : Byte) (s : State) (h : s.decCount.val < 12) :
    append v s = { s with
      decBuf := memWrite s.decBuf ⟨s.decCount.val, h⟩ v, decCount := ⟨s.decCount.val + 1, Nat.succ_lt_succ h⟩ } := by
  simp [append, h]

/-- `append` at 12 changes nothing. -/
theorem append_of_full (v : Byte) (s : State) (h : s.decCount = 12) : append v s = s := by
  simp [append, h]

/-- Everything `append` can do. -/
theorem append_cases (v : Byte) (s : State) :
    (∃ h : s.decCount.val < 12, append v s = { s with
      decBuf := memWrite s.decBuf ⟨s.decCount.val, h⟩ v, decCount := ⟨s.decCount.val + 1, Nat.succ_lt_succ h⟩ }) ∨
    (s.decCount = 12 ∧ append v s = s) := by
  by_cases h : s.decCount.val < 12
  · exact .inl ⟨h, append_of_lt v s h⟩
  · have h12 : s.decCount = 12 := by ext; have := s.decCount.isLt; simp; omega
    exact .inr ⟨h12, append_of_full v s h12⟩

/-! ### The encoder -/

/-- `advancePos` below 13. -/
theorem advancePos_of_lt (s : State) (h : s.encPos.val < 13) :
    advancePos s = { s with encPos := ⟨s.encPos.val + 1, Nat.succ_lt_succ h⟩ } := by
  simp [advancePos, h]

/-- The current content byte exists exactly at positions 1 to 12. -/
theorem cur_eq_some_iff (s : State) (c : Byte) :
    cur s = some c ↔ ∃ h : 1 ≤ s.encPos.val ∧ s.encPos.val ≤ 12, memRead s.encBuf ⟨s.encPos.val - 1, by omega⟩ = c := by
  unfold cur; split
  · rename_i h; simp [h]
  · rename_i h; simp [h]

/-- There is no current content byte at positions 0 and 13 only. -/
theorem cur_eq_none_iff (s : State) : cur s = none ↔ s.encPos = 0 ∨ s.encPos = 13 := by
  unfold cur; split
  · rename_i h
    simp only [reduceCtorEq, false_iff, not_or]
    constructor <;> intro e <;> rw [e] at h <;> simp at h
  · rename_i h
    simp only [true_iff, Fin.ext_iff]
    have := s.encPos.isLt
    simp only [Fin.val_zero]
    change s.encPos.val = 0 ∨ s.encPos.val = 13
    omega

/-- `needsEscape` in the spec's words. -/
theorem needsEscape_iff (c : Byte) : needsEscape c = true ↔ c = END ∨ c = ESC := by
  simp [needsEscape]

/-- The wire bytes of a content byte are the one or two bytes the sequencer sends for it. -/
theorem stuff_eq (c : Byte) : stuff c = if needsEscape c then [ESC, escapeSecond c] else [c] := by
  unfold stuff needsEscape escapeSecond
  by_cases h : c = END
  · simp [h]
  · by_cases h' : c = ESC
    · subst h'; decide
    · simp_all

/-! ### Running a meaning -/

/-- A guarded meaning answers a next state exactly where its condition holds. -/
@[simp] theorem guarded_eq_next (cond : Bool) (u t : State) : guarded cond u = .next t ↔ cond = true ∧ u = t := by
  cases cond <;> simp [guarded]

/-- Two meanings in a row answer a next state exactly when both do. -/
@[simp] theorem andThen_eq_next (r : Result) (f : State → Result) (t : State) :
    andThen r f = .next t ↔ ∃ s, r = .next s ∧ f s = .next t := by
  cases r <;> simp [andThen]

/-- The rest of a sequence runs from the state a next answer holds. -/
@[simp] theorem andThen_next (s : State) (f : State → Result) : andThen (.next s) f = f s := rfl

/-! ### Steps -/

/-- The next entry of a queue that holds one. -/
@[simp] theorem nextStimulus_cons (s : State) (x : Stimulus) (rest : List Stimulus) (h : s.inputs = x :: rest) :
    nextStimulus s = (x, { s with inputs := rest }) := by
  simp [nextStimulus, h]

/-- The next entry of an empty queue. -/
theorem nextStimulus_nil (s : State) (h : s.inputs = []) : nextStimulus s = (.ports quietPorts, s) := by
  simp [nextStimulus, h]

/-- A step whose queue holds an entry performs it. -/
theorem step_cons (s : State) (x : Stimulus) (rest : List Stimulus) (h : s.inputs = x :: rest) :
    step s = perform x { s with inputs := rest } := by
  simp [step, nextStimulus_cons s x rest h]

/-- The datagrams accepted from a state whose next step is known. -/
theorem acceptedIn_succ (n : Nat) (s t : State) (h : step s = .next t) :
    acceptedIn (n + 1) s = acceptedNext s ++ acceptedIn n t := by
  simp [acceptedIn, h]

/-- The datagram accepted when a clock step is next. -/
theorem acceptedNext_cons (s : State) (p : Ports) (rest : List Stimulus) (h : s.inputs = .ports p :: rest) :
    acceptedNext s = acceptedBy p s := by
  simp [acceptedNext, h]

/-- A clock step with `rst = 0` runs the operation of each agent. -/
theorem clockStep_of_not_rst (p : Ports) (s : State) (h : p.rst = false) :
    clockStep p s = andThen (exec (selectDec p s) s) (fun t => exec (selectEnc p s) t) := by
  simp [clockStep, h]

/-- Everything a step can be: the clock step or the call that the front of the queue holds, or the quiet clock step. -/
theorem step_cases (s : State) :
    (∃ p rest, s.inputs = .ports p :: rest ∧ step s = clockStep p { s with inputs := rest }) ∨
    (∃ b rest, s.inputs = .stuffByte b :: rest ∧ step s = exec (decodeContent b) { s with inputs := rest }) ∨
    (∃ d rest, s.inputs = .encodeDatagram d :: rest ∧ step s = exec (.frame d) { s with inputs := rest }) ∨
    (s.inputs = [] ∧ step s = clockStep quietPorts s) := by
  rcases hs : s.inputs with _ | ⟨x, rest⟩
  · exact .inr (.inr (.inr ⟨rfl, by simp [step, nextStimulus_nil s hs, perform]⟩))
  · cases x with
    | ports p => exact .inl ⟨p, rest, rfl, by rw [step_cons s _ _ hs]; rfl⟩
    | stuffByte b => exact .inr (.inl ⟨b, rest, rfl, by rw [step_cons s _ _ hs]; rfl⟩)
    | encodeDatagram d => exact .inr (.inr (.inl ⟨d, rest, rfl, by rw [step_cons s _ _ hs]; rfl⟩))

end Sys2Proof.Machine
end

