-- ==== Sys2Proof/Laws/PerInstr.lean ====
section
/-! SUPPORT. Facts about every operation as syntax, one lemma a constructor (LAWS.json). -/

namespace Sys2Proof.Laws.SourcedWord

open Sys2Proof Config

/-- A well-formed operation that bytes select has a word no longer than the longest frame (00_scope.md R5), and one
that no bytes select has none. -/
def Statement (i : Instr) : Prop :=
  (sourceOf i = none → encode i = []) ∧ (encode i).length ≤ maxFrame

theorem stuffAll_length_le (bs : List Byte) : (stuffAll bs).length ≤ 2 * bs.length := by
  induction bs with
  | nil => simp [stuffAll]
  | cons b bs ih =>
    have hb : (stuff b).length ≤ 2 := by unfold stuff; split <;> [simp; split <;> simp]
    simp only [stuffAll, List.flatMap_cons, List.length_append, List.length_cons] at *
    omega

theorem decIdleEnd : Statement .decIdleEnd := by simp [Statement, sourceOf, encode]
theorem decIdleSkip (b : Byte) : Statement (.decIdleSkip b) := by simp [Statement, sourceOf, encode]
theorem decInframeEnd : Statement .decInframeEnd := by simp [Statement, sourceOf, encode]
theorem decInframeEsc : Statement .decInframeEsc := by simp [Statement, sourceOf, encode]
theorem decInframeData (b : Byte) : Statement (.decInframeData b) := by simp [Statement, sourceOf, encode]
theorem decEscEnd : Statement .decEscEnd := by simp [Statement, sourceOf, encode]
theorem decEscEsc : Statement .decEscEsc := by simp [Statement, sourceOf, encode]
theorem decEscBad (b : Byte) : Statement (.decEscBad b) := by simp [Statement, sourceOf, encode]
theorem decNop : Statement .decNop := by simp [Statement, sourceOf, encode]
theorem stuffLit (b : Byte) : Statement (.stuffLit b) := by simp [Statement, sourceOf, encode]
theorem stuffEnd : Statement .stuffEnd := by simp [Statement, sourceOf, encode]
theorem stuffEsc : Statement .stuffEsc := by simp [Statement, sourceOf, encode]
theorem frame (d : Datagram) : Statement (.frame d) := by
  have h := stuffAll_length_le d.content.toList
  simp only [Vector.length_toList] at h
  simp only [Statement, sourceOf, encode, encodeFrame, encodeContent, List.length_append, List.length_cons,
    List.length_nil, reduceCtorEq, false_implies, true_and]
  change _ ≤ 26
  omega
theorem encLoad (d : Datagram) : Statement (.encLoad d) := by simp [Statement, sourceOf, encode]
theorem encOpen : Statement .encOpen := by simp [Statement, sourceOf, encode]
theorem encLit : Statement .encLit := by simp [Statement, sourceOf, encode]
theorem encEsc1 : Statement .encEsc1 := by simp [Statement, sourceOf, encode]
theorem encEsc2 : Statement .encEsc2 := by simp [Statement, sourceOf, encode]
theorem encClose : Statement .encClose := by simp [Statement, sourceOf, encode]
theorem encStall : Statement .encStall := by simp [Statement, sourceOf, encode]
theorem encWait : Statement .encWait := by simp [Statement, sourceOf, encode]
theorem reset : Statement .reset := by simp [Statement, sourceOf, encode]

end Sys2Proof.Laws.SourcedWord
end

