-- ==== Sys2Proof/Tests/Slice0.lean ====
section
/-! SUPPORT. Tests: ill-formed terms that WellFormed refuses, words written out from spec/opcode_table.json, one-step
vectors of spec/95_test_vectors.md (named D<n>, E<n>, X<n> there), and, for each statement with hypotheses, a state and
operands that meet them. -/

namespace Sys2Proof.Tests

open Sys2Proof Machine

/-! ## Helpers -/

/-- The datagram of vector E1. -/
def e1 : Datagram := { header := #v[0x0A, 0, 0, 0], payload := #v[1, 2, 3, 4, 5, 6, 7, 8] }

/-- The datagram of vector E2. -/
def e2 : Datagram :=
  { header := #v[0x0A, 0, 0, 0xC0], payload := #v[0x10, 0xDB, 0x30, 0x40, 0xC0, 0x60, 0x70, 0x80] }

/-- A reset state with these decoder registers. -/
def inDec (st : DecState) (n : Fin 13) (buf : Content) : State :=
  { State.reset with decState := st, decCount := n, decBuf := buf }

/-- A reset state whose encoder holds vector E2 at this position. -/
def inEnc (pos : Fin 14) (esc : Bool) : State :=
  { State.reset with encBusy := true, encPos := pos, encEsc := esc, encBuf := e2.content }

/-- Input ports that present one byte. -/
def byteIn (b : Byte) : Ports := { quietPorts with rxValid := true, rxData := b }

/-- Input ports that offer a datagram. -/
def offer (d : Datagram) : Ports :=
  { quietPorts with txDgValid := true, txDgHeader := d.header, txDgPayload := d.payload }

/-- Input ports with a ready sink. -/
def sink : Ports := { quietPorts with txReady := true }

/-- The state after one step with these input ports. -/
def after (s : State) (p : Ports) : Option State :=
  match step { s with inputs := [.ports p] } with
  | .next t => some t
  | .fault _ => none
  | .refused _ => none

/-- The decoder's state, count and new events after one byte. -/
def rx (s : State) (b : Byte) : Option (DecState × Fin 13 × List Event) :=
  (after s (byteIn b)).map fun t => (t.decState, t.decCount, t.events)

/-- The encoder's busy bit, position, escape bit and new wire bytes after one step with a ready sink. -/
def tx (s : State) : Option (Bool × Fin 14 × Bool × List Byte) :=
  (after s sink).map fun t => (t.encBusy, t.encPos, t.encEsc, t.wire)

/-- Whether an outcome is the model's refusal of an operation outside its condition. -/
def isNotSelected (r : Result) : Bool :=
  match r with
  | .refused .notSelected => true
  | _ => false

/-! ## Ill-formed terms (the `excludes` of spec/opcode_table.json) -/

theorem test_wf_idle_skip_end : (Instr.decIdleSkip 0xC0).wf = false := by decide
theorem test_wf_inframe_data_end : (Instr.decInframeData 0xC0).wf = false := by decide
theorem test_wf_inframe_data_esc : (Instr.decInframeData 0xDB).wf = false := by decide
theorem test_wf_esc_bad_esc_end : (Instr.decEscBad 0xDC).wf = false := by decide
theorem test_wf_esc_bad_esc_esc : (Instr.decEscBad 0xDD).wf = false := by decide
theorem test_wf_stuff_lit_end : (Instr.stuffLit 0xC0).wf = false := by decide
theorem test_wf_stuff_lit_esc : (Instr.stuffLit 0xDB).wf = false := by decide
theorem test_wf_accepts : (Instr.decIdleSkip 0xDB).wf && (Instr.decInframeData 0xDC).wf && (Instr.decEscBad 0xC0).wf &&
    (Instr.stuffLit 0xDD).wf = true := by decide

/-! ## Words, written out from spec/opcode_table.json and 30_encoding.md R46 (binary) -/

theorem test_word_idle_end : decodeRx .idle 0b11000000 = .decIdleEnd := by decide
theorem test_word_idle_skip : decodeRx .idle 0b11011011 = .decIdleSkip 0xDB := by decide
theorem test_word_inframe_end : decodeRx .inFrame 0b11000000 = .decInframeEnd := by decide
theorem test_word_inframe_esc : decodeRx .inFrame 0b11011011 = .decInframeEsc := by decide
theorem test_word_inframe_data : decodeRx .inFrame 0b11011100 = .decInframeData 0xDC := by decide
theorem test_word_esc_end : decodeRx .escaping 0b11011100 = .decEscEnd := by decide
theorem test_word_esc_esc : decodeRx .escaping 0b11011101 = .decEscEsc := by decide
theorem test_word_esc_bad : decodeRx .escaping 0b11000000 = .decEscBad 0xC0 := by decide
theorem test_word_nop : decodeTableWord 0 0 = some .decNop := by decide
theorem test_word_stuff_lit : decodeContent 0b11011100 = .stuffLit 0xDC := by decide
theorem test_word_stuff_end : decodeContent 0b11000000 = .stuffEnd := by decide
theorem test_word_stuff_esc : decodeContent 0b11011011 = .stuffEsc := by decide

/-- The frame of E2 as a number of 17 bytes, its first wire byte in bits 7..0. -/
theorem test_word_frame : decodeTableWord 136 0xC0807060DCDB4030DDDB10DCDB00000AC0 = some (.frame e2) := by decide

/-- Bytes that are no frame are refused by name (30_encoding.md R54). -/
theorem test_frame_bad_escape : decodeFrame [0xC0, 0xDB, 0x05] = .error .badEscape := by rfl
theorem test_frame_too_short : decodeFrame [0xC0, 0x0A, 0x00, 0xC0] = .error .tooShort := by rfl
theorem test_frame_too_long :
    decodeFrame [0xC0, 10, 0, 0, 0, 1, 2, 3, 4, 5, 6, 7, 8, 9, 0xC0] = .error .tooLong := by rfl

/-- The encoder's operations have no word; its registers select them (40_encoder.md R66 to R73). -/
theorem test_select_load : selectEnc (offer e1) State.reset = .encLoad e1 := by decide
theorem test_select_open : selectEnc sink (inEnc 0 false) = .encOpen := by decide
theorem test_select_lit : selectEnc sink (inEnc 5 false) = .encLit := by decide
theorem test_select_esc1 : selectEnc sink (inEnc 4 false) = .encEsc1 := by decide
theorem test_select_esc2 : selectEnc sink (inEnc 4 true) = .encEsc2 := by decide
theorem test_select_close : selectEnc sink (inEnc 13 false) = .encClose := by decide
theorem test_select_stall : selectEnc (offer e1) (inEnc 4 true) = .encStall := by decide
theorem test_select_wait : selectEnc sink State.reset = .encWait := by decide

/-! ## One step of the decoder (95_test_vectors.md 3.1) -/

theorem test_D1 : rx State.reset 0xC0 = some (.inFrame, 0, []) := by decide
theorem test_D2 : rx State.reset 0x41 = some (.idle, 0, []) := by decide
theorem test_D3 : rx State.reset 0xDB = some (.idle, 0, []) := by decide
theorem test_D6 : rx (inDec .inFrame 11 e1.content) 0xC0 = some (.idle, 0, [.error .shortFrame]) := by decide
theorem test_D7 : rx (inDec .inFrame 12 e1.content) 0xC0 = some (.idle, 0, [.datagram e1]) := by decide
theorem test_D8 : rx (inDec .inFrame 5 e1.content) 0xDB = some (.escaping, 5, []) := by decide
theorem test_D9 : rx (inDec .inFrame 12 e1.content) 0xDB = some (.escaping, 12, []) := by decide
theorem test_D10 : (after (inDec .inFrame 4 e1.content) (byteIn 0x41)).map (fun t => (t.decCount, t.decBuf)) =
    some (5, #v[0x0A, 0, 0, 0, 0x41, 2, 3, 4, 5, 6, 7, 8]) := by decide
theorem test_D12 : after (inDec .inFrame 12 e1.content) (byteIn 0x41) =
    some { inDec .inFrame 12 e1.content with encOut := encOutFree } := by decide
theorem test_D13 : (after (inDec .escaping 5 e1.content) (byteIn 0xDC)).map
    (fun t => (t.decState, t.decCount, t.decBuf[5])) = some (.inFrame, 6, 0xC0) := by decide
theorem test_D14 : (after (inDec .escaping 0 e1.content) (byteIn 0xDD)).map
    (fun t => (t.decState, t.decCount, t.decBuf[0])) = some (.inFrame, 1, 0xDB) := by decide
theorem test_D15 : (after (inDec .escaping 12 e1.content) (byteIn 0xDC)).map
    (fun t => (t.decState, t.decCount, t.decBuf)) = some (.inFrame, 12, e1.content) := by decide
theorem test_D17 : rx (inDec .escaping 7 e1.content) 0xC0 = some (.idle, 0, [.error .badEscape]) := by decide
theorem test_D19 : rx (inDec .escaping 12 e1.content) 0x00 = some (.idle, 0, [.error .badEscape]) := by decide
theorem test_D20 : (after (inDec .escaping 3 e1.content) quietPorts).map decRegs =
    some { state := .escaping, count := 3, buf := e1.content } := by decide

/-- 60_exceptions.md R107: the ports in the step of each event. -/
theorem test_ports_short : (after (inDec .inFrame 0 e1.content) (byteIn 0xC0)).map
    (fun t => (t.decOut.errValid, t.decOut.errKind, t.decOut.dgValid)) = some (true, 1, false) := by decide
theorem test_ports_bad : (after (inDec .escaping 7 e1.content) (byteIn 0x05)).map
    (fun t => (t.decOut.errValid, t.decOut.errKind, t.decOut.dgHeader)) = some (true, 2, none) := by decide

/-! ## The function layer (95_test_vectors.md 2.1, 2.2) -/

/-- What a call of the function layer returns. -/
def call (x : Stimulus) : Option (List Byte) :=
  match step { State.reset with inputs := [x] } with
  | .next t => some t.fnOut
  | .fault _ => none
  | .refused _ => none

theorem test_stuff_below_end : call (.stuffByte 0xBF) = some [0xBF] := by decide
theorem test_stuff_dd : call (.stuffByte 0xDD) = some [0xDD] := by decide
theorem test_stuff_end : call (.stuffByte 0xC0) = some [0xDB, 0xDC] := by decide
theorem test_stuff_esc : call (.stuffByte 0xDB) = some [0xDB, 0xDD] := by decide
theorem test_E1 : call (.encodeDatagram e1) = some [0xC0, 0x0A, 0, 0, 0, 1, 2, 3, 4, 5, 6, 7, 8, 0xC0] := by decide
theorem test_E2 : call (.encodeDatagram e2) =
    some [0xC0, 0x0A, 0, 0, 0xDB, 0xDC, 0x10, 0xDB, 0xDD, 0x30, 0x40, 0xDB, 0xDC, 0x60, 0x70, 0x80, 0xC0] := by decide

/-! ## One step of the encoder (95_test_vectors.md 2.3, 2.4, 2.5) -/

theorem test_load : (after State.reset (offer e2)).map
    (fun t => (t.encBusy, t.encPos, t.encEsc, t.encBuf)) =
    some (true, 0, false, #v[0x0A, 0, 0, 0xC0, 0x10, 0xDB, 0x30, 0x40, 0xC0, 0x60, 0x70, 0x80]) := by decide
theorem test_load_ports : (after State.reset (offer e2)).map (·.encOut) =
    some { txDgReady := true, txValid := false, txData := none } := by decide
theorem test_open : tx (inEnc 0 false) = some (true, 1, false, [0xC0]) := by decide
theorem test_lit : tx (inEnc 1 false) = some (true, 2, false, [0x0A]) := by decide
theorem test_lit_last : tx (inEnc 12 false) = some (true, 13, false, [0x80]) := by decide
theorem test_esc1 : tx (inEnc 4 false) = some (true, 4, true, [0xDB]) := by decide
theorem test_esc2_end : tx (inEnc 4 true) = some (true, 5, false, [0xDC]) := by decide
theorem test_esc2_esc : tx (inEnc 6 true) = some (true, 7, false, [0xDD]) := by decide
theorem test_close : tx (inEnc 13 false) = some (false, 13, false, [0xC0]) := by decide
/-- X1 and X4: a stall inside an escape pair, with a datagram offered to a busy encoder. -/
theorem test_stall : after (inEnc 4 true) (offer e1) =
    some { inEnc 4 true with encOut := { txDgReady := false, txValid := true, txData := some 0xDC } } := by decide
theorem test_wait : after State.reset sink =
    some { State.reset with encOut := { txDgReady := true, txValid := false, txData := none } } := by decide
/-- X3: reset at step 9 of 2.3 leaves what has been transferred; D22: a byte presented in a reset step is lost. -/
theorem test_reset : after { inEnc 6 true with decState := .inFrame, decCount := 3, wire := [0xC0] }
    { byteIn 0xC0 with rst := true, txReady := true } =
    some { State.reset with encBuf := e2.content, wire := [0xC0] } := by decide

/-! ## Placed words, refusals, widths, fields -/

/-- 95_test_vectors.md P6, with E1 for its third datagram: the second of three is lost, without an error. -/
theorem test_P6 : (deframe (decRegs State.reset) (sharedDelimiterStream [e1, e2, e1])).2 =
    [.datagram e1, .datagram e1] := by decide

theorem test_placed_word_runs : (match step (State.reset.withFetchWord 8 0xDD) with
    | .next t => some (t.decState, t.decCount, t.decBuf[0])
    | _ => none) = some (.inFrame, 1, 0xDB) := by decide
theorem test_not_selected : isNotSelected (exec .decInframeEsc State.reset) = true := by decide
/-- 10_state.md R26: the register list is 204 bits; R9: the codes of `dec_state` fit its width. -/
theorem test_register_bits : Config.stateW + Config.countW + 8 * Config.dgramLen + 1 + Config.countW + 1 +
    8 * Config.dgramLen = 204 := by decide
theorem test_state_codes : [DecState.idle, .inFrame, .escaping].map decStateCode = [0, 1, 2] := by decide
/-- E7: an `IMAGE` header with sequence number 00 C0 DB; E8: an `IMAGEHEAD` payload of a 4 x 4 image. -/
theorem test_image_header : headerLayout #v[0x0D, 0x00, 0xC0, 0xDB] = some (.image 0x00C0DB) := by decide
theorem test_image_payload : imageSize #v[0, 0, 0, 0, 4, 0, 4, 1] = { width := 4, height := 4, encoding := 1 } := by
  decide

/-! ## Witnesses: states and operands that meet the hypotheses of the statements, at boundary values -/

/-- A reset state whose encoder holds twelve bytes of this value at this position. -/
def inEncAll (b : Byte) (pos : Fin 14) (esc : Bool) : State :=
  { State.reset with encBusy := true, encPos := pos, encEsc := esc, encBuf := Vector.replicate 12 b }

/-- A state with this queue. -/
def queued (s : State) (xs : List Stimulus) : State := { s with inputs := xs }

theorem witness_OrdinaryByteIsReturnedVerbatim : (0xDC : Byte) ≠ 0xC0 ∧ (0xDC : Byte) ≠ 0xDB := by decide
theorem witness_FrameIsDelimitedStuffedContent : (0xBF : Byte) ≠ 0xC0 ∧ (0xBF : Byte) ≠ 0xDB := by decide
theorem witness_EncodeLengthDelimitersAndInjectivity :
    encodeFrame e2 = [0xC0, 0x0A, 0, 0] ++ 0xDB :: [0xDC, 0x10, 0xDB, 0xDD, 0x30, 0x40, 0xDB, 0xDC, 0x60, 0x70, 0x80, 0xC0] ∧
    encodeFrame e1 = encodeFrame e1 ∧ encodeFrame e1 <+: encodeFrame e1 := by decide
theorem witness_EveryWordDecodesToItsOperation :
    ((Instr.frame e2).wf = true ∧ sourceOf (.frame e2) = some .frame ∧ Instr.frame e2 ≠ .decNop) ∧
    ((Instr.decEscBad 0xC0).wf = true ∧ sourceOf (.decEscBad 0xC0) = some (.rx .escaping) ∧
      Instr.decEscBad 0xC0 ≠ .decNop) ∧
    ((Instr.stuffLit 0xDD).wf = true ∧ sourceOf (.stuffLit 0xDD) = some .content ∧ Instr.stuffLit 0xDD ≠ .decNop) := by
  decide
theorem witness_EveryDecodedOperationHasThatWord :
    decode (.rx .escaping) [0xC0, 0x01] = .ok (.decEscBad 0xC0, [0x01]) ∧
    decode .content [0xDB] = .ok (.stuffEsc, []) ∧
    decode .frame (encodeFrame e2 ++ [0xC0]) = .ok (.frame e2, [0xC0]) ∧
    decode (.rx .idle) [] = .ok (.decNop, []) := ⟨rfl, rfl, rfl, rfl⟩
theorem witness_EveryByteSelectsExactlyOneOperation :
    (∃ st, sourceOf (.decEscBad 0xC0) = some (.rx st)) ∧ encode (.decEscBad 0xC0) = [0xC0] := ⟨⟨_, rfl⟩, rfl⟩

theorem witness_EndInIdleOpensAFrame :
    State.reset.decState = .idle ∧ (byteIn 0xC0).rxValid = true ∧ (byteIn 0xC0).rxData = 0xC0 := by decide
theorem witness_OtherByteInIdleIsDropped :
    State.reset.decState = .idle ∧ (byteIn 0xDB).rxValid = true ∧ (byteIn 0xDB).rxData ≠ 0xC0 := by decide
theorem witness_EndInFrameDeliversOrRaisesShortFrame :
    ((inDec .inFrame 12 e1.content).decState = .inFrame ∧ (inDec .inFrame 12 e1.content).decCount = 12) ∧
    ((inDec .inFrame 11 e1.content).decState = .inFrame ∧ (inDec .inFrame 11 e1.content).decCount ≠ 12) ∧
    ((inDec .inFrame 0 e1.content).decCount ≠ 12 ∧ (byteIn 0xC0).rxValid = true ∧ (byteIn 0xC0).rxData = 0xC0) := by
  decide
theorem witness_EscInFrameStartsAnEscape :
    (inDec .inFrame 12 e1.content).decState = .inFrame ∧ (byteIn 0xDB).rxValid = true ∧
    (byteIn 0xDB).rxData = 0xDB := by decide
theorem witness_DataByteIsAppendedOrDropped :
    ((inDec .inFrame 0 e1.content).decCount.val < 12 ∧ (inDec .inFrame 11 e1.content).decCount.val < 12 ∧
      (inDec .inFrame 11 e1.content).decState = .inFrame ∧ (0xDC : Byte) ≠ 0xC0 ∧ (0xDC : Byte) ≠ 0xDB) ∧
    ((inDec .inFrame 12 e1.content).decCount = 12 ∧ (inDec .inFrame 12 e1.content).decState = .inFrame) ∧
    ((byteIn 0xDC).rxValid = true ∧ (byteIn 0xDC).rxData ≠ 0xC0 ∧ (byteIn 0xDC).rxData ≠ 0xDB) := by decide
theorem witness_EscapedEndAppendsTheDelimiterValue :
    ((inDec .escaping 11 e1.content).decCount.val < 12 ∧ (inDec .escaping 11 e1.content).decState = .escaping) ∧
    ((inDec .escaping 12 e1.content).decCount = 12 ∧ (inDec .escaping 12 e1.content).decState = .escaping) ∧
    ((byteIn 0xDC).rxValid = true ∧ (byteIn 0xDC).rxData = 0xDC) := by decide
theorem witness_EscapedEscAppendsTheEscapeValue :
    ((inDec .escaping 0 e1.content).decCount.val < 12 ∧ (inDec .escaping 0 e1.content).decState = .escaping) ∧
    ((inDec .escaping 12 e1.content).decCount = 12 ∧ (inDec .escaping 12 e1.content).decState = .escaping) ∧
    ((byteIn 0xDD).rxValid = true ∧ (byteIn 0xDD).rxData = 0xDD) := by decide
theorem witness_OtherByteAfterEscRaisesBadEscape :
    (inDec .escaping 12 e1.content).decState = .escaping ∧ (byteIn 0xC0).rxValid = true ∧
    (byteIn 0xC0).rxData ≠ 0xDC ∧ (byteIn 0xC0).rxData ≠ 0xDD ∧
    (decRegs (inDec .escaping 12 e1.content)).state = .escaping ∧ Config.END ∉ [(0xDB : Byte)] := by decide
theorem witness_NoByteChangesNoDecoderRegister : quietPorts.rxValid = false := by decide
theorem witness_AppendsKeepTheFirstTwelveBytes :
    State.reset.decCount = 0 ∧
    (List.replicate 13 (0xC0 : Byte)).foldl (fun u v => append v u) State.reset =
      inDec .idle 12 (Vector.replicate 12 0xC0) := by decide
theorem witness_OnlyTwoOperationsRaiseEvents :
    (∃ t, exec .decInframeEnd (inDec .inFrame 12 e1.content) = .next t ∧ t.events ≠ []) ∧
    ∃ t, exec (.decEscBad 0xC0) (inDec .escaping 12 e1.content) = .next t ∧ t.events ≠ [] :=
  ⟨⟨_, rfl, by decide⟩, _, rfl, by decide⟩

theorem witness_TxDataFollowsPositionAndEscape :
    (inEnc 0 false).encPos = 0 ∧ (inEnc 13 false).encPos = 13 ∧
    (1 ≤ (inEncAll 0xC0 12 true).encPos.val ∧ (inEncAll 0xC0 12 true).encPos.val - 1 < 12 ∧
      (inEncAll 0xC0 12 true).encEsc = true ∧ (inEncAll 0xC0 12 true).encBuf[11] = 0xC0) ∧
    (1 ≤ (inEncAll 0xDB 1 true).encPos.val ∧ (inEncAll 0xDB 1 true).encEsc = true ∧
      (inEncAll 0xDB 1 true).encBuf[0] = 0xDB) ∧
    ((inEncAll 0xDB 1 false).encEsc = false ∧ (inEncAll 0xDB 1 false).encBuf[0] = 0xDB) ∧
    ((inEncAll 0xDC 12 false).encEsc = false ∧ (inEncAll 0xDC 12 false).encBuf[11] ≠ 0xC0 ∧
      (inEncAll 0xDC 12 false).encBuf[11] ≠ 0xDB) := by decide
theorem witness_LoadTakesTheWholeDatagram :
    State.reset.encBusy = false ∧ (offer e1).txDgValid = true ∧ (inEnc 13 false).encBusy = true := by decide
theorem witness_OpenTransfersTheOpeningDelimiter :
    (inEnc 0 false).encBusy = true ∧ (inEnc 0 false).encPos = 0 ∧ sink.txReady = true := by decide
theorem witness_LitTransfersTheContentByte :
    (1 ≤ (inEnc 1 false).encPos.val ∧ (inEnc 1 false).encPos.val - 1 < 12 ∧ (inEnc 1 false).encPos.val + 1 < 14 ∧
      (inEnc 1 false).encBusy = true ∧ (inEnc 1 false).encEsc = false ∧ (inEnc 1 false).encBuf[0] ≠ 0xC0 ∧
      (inEnc 1 false).encBuf[0] ≠ 0xDB) ∧
    ((inEnc 12 false).encPos.val - 1 < 12 ∧ (inEnc 12 false).encPos.val + 1 < 14 ∧
      (inEnc 12 false).encBuf[11] ≠ 0xC0 ∧ (inEnc 12 false).encBuf[11] ≠ 0xDB) ∧ sink.txReady = true := by decide
theorem witness_EscOneTransfersTheIntroducer :
    (1 ≤ (inEncAll 0xC0 12 false).encPos.val ∧ (inEncAll 0xC0 12 false).encPos.val - 1 < 12 ∧
      (inEncAll 0xC0 12 false).encBusy = true ∧ (inEncAll 0xC0 12 false).encEsc = false ∧
      (inEncAll 0xC0 12 false).encBuf[11] = 0xC0) ∧
    (1 ≤ (inEncAll 0xDB 1 false).encPos.val ∧ (inEncAll 0xDB 1 false).encBuf[0] = 0xDB) ∧ sink.txReady = true := by
  decide
theorem witness_EscTwoTransfersTheSecondByte :
    (1 ≤ (inEncAll 0xC0 12 true).encPos.val ∧ (inEncAll 0xC0 12 true).encPos.val - 1 < 12 ∧
      (inEncAll 0xC0 12 true).encPos.val + 1 < 14 ∧ (inEncAll 0xC0 12 true).encBusy = true ∧
      (inEncAll 0xC0 12 true).encEsc = true ∧ (inEncAll 0xC0 12 true).encBuf[11] = 0xC0) ∧
    (1 ≤ (inEncAll 0xDB 1 true).encPos.val ∧ (inEncAll 0xDB 1 true).encPos.val + 1 < 14 ∧
      (inEncAll 0xDB 1 true).encBuf[0] ≠ 0xC0) ∧ sink.txReady = true := by decide
theorem witness_CloseTransfersTheClosingDelimiter :
    (inEnc 13 false).encBusy = true ∧ (inEnc 13 false).encPos = 13 ∧ sink.txReady = true ∧
    ∃ t, exec .encClose (inEnc 13 false) = .next t := ⟨rfl, rfl, rfl, _, rfl⟩
theorem witness_StallHoldsTheByte : (inEnc 4 true).encBusy = true ∧ quietPorts.txReady = false := by decide
theorem witness_WaitChangesNoEncoderRegister :
    State.reset.encBusy = false ∧ quietPorts.txDgValid = false := by decide
theorem witness_OnlyEmitOperationsTransferBytes :
    ∃ t, exec .encEsc2 (inEnc 6 true) = .next t ∧ t.wire ≠ [] := ⟨_, rfl, by decide⟩

theorem witness_ResetClearsTheControlRegisters :
    (queued (inEnc 4 true) [.ports { sink with rst := true }]).inputs = [.ports { sink with rst := true }] ∧
    ({ sink with rst := true } : Ports).rst = true := by decide
theorem witness_ResetValuesAndFirstPorts :
    State.reset.decState = .idle ∧ State.reset.decCount = 0 ∧ State.reset.encBusy = false ∧ State.reset.encPos = 0 ∧
    State.reset.encEsc = false ∧ (queued State.reset [.ports (byteIn 0xC0)]).inputs = [.ports (byteIn 0xC0)] ∧
    (byteIn 0xC0).rst = false := by decide
theorem witness_StepRunsTheSelectedOperations :
    ((queued (inEnc 4 true) [.ports sink]).inputs = [.ports sink] ∧ sink.rst = false) ∧ (byteIn 0xC0).rxValid = true ∧
    ({ sink with rst := true } : Ports).rst = true ∧
    ((queued State.reset [.stuffByte 0xDB]).inputs = [.stuffByte 0xDB] ∧
      decode .content [0xDB] = .ok (.stuffEsc, [])) ∧
    (queued State.reset [.encodeDatagram e2]).inputs = [.encodeDatagram e2] ∧ State.reset.inputs = [] :=
  ⟨⟨rfl, rfl⟩, rfl, rfl, ⟨rfl, rfl⟩, rfl, rfl⟩
theorem witness_EmptyStepsChangeNothing :
    (queued (inEnc 4 true) [.ports quietPorts]).inputs = [.ports quietPorts] ∧ quietPorts.rst = false ∧
    quietPorts.rxValid = false ∧ ((inEnc 4 true).encBusy = true ∧ quietPorts.txReady = false) ∧
    (State.reset.encBusy = false ∧ quietPorts.txDgValid = false) := by decide
/-- Different ignored inputs: the offer to a busy encoder, and the byte when none is valid. -/
theorem witness_IgnoredInputsHaveNoEffect :
    quietPorts ≠ { offer e1 with rxData := 0xC0 } ∧ quietPorts.rst = ({ offer e1 with rxData := 0xC0 } : Ports).rst ∧
    quietPorts.rxValid = ({ offer e1 with rxData := 0xC0 } : Ports).rxValid ∧ quietPorts.rxValid = false ∧
    quietPorts.txReady = ({ offer e1 with rxData := 0xC0 } : Ports).txReady ∧ (inEnc 4 true).encBusy = true := by decide
theorem witness_AgentsOperationsCommute :
    (∃ st, sourceOf .decInframeEnd = some (.rx st)) ∧ sourceOf .encClose = none ∧ Instr.encClose ≠ .reset :=
  ⟨⟨_, rfl⟩, rfl, by decide⟩
/-- The first pair of states has the same decoder and different encoders, the second the reverse. -/
theorem witness_AgentsSeeOnlyTheirOwnState :
    (decRegs (inEnc 4 true) = decRegs State.reset ∧ (inEnc 4 true).encBusy ≠ State.reset.encBusy ∧
      (∃ t, step (queued (inEnc 4 true) [.ports sink]) = .next t) ∧
      ∃ t, step (queued State.reset [.ports quietPorts]) = .next t) ∧
    ((inDec .escaping 12 e1.content).encBuf = State.reset.encBuf ∧
      decRegs (inDec .escaping 12 e1.content) ≠ decRegs State.reset ∧
      ∃ t, step (queued (inDec .escaping 12 e1.content) [.ports (byteIn 0xC0)]) = .next t) :=
  ⟨⟨by decide, by decide, ⟨_, rfl⟩, _, rfl⟩, by decide, by decide, _, rfl⟩
theorem witness_RegistersChangeOnlyByTheirOwnOperations :
    (∃ t, exec (.decInframeData 0x41) (inDec .inFrame 11 e1.content) = .next t ∧ t.decBuf ≠ e1.content) ∧
    (∃ t, exec .encEsc2 (inEnc 4 true) = .next t ∧ t.encPos ≠ 4) ∧
    ∃ t, exec (.encLoad e1) State.reset = .next t ∧ t.encBuf ≠ State.reset.encBuf :=
  ⟨⟨_, rfl, by decide⟩, ⟨_, rfl, by decide⟩, _, rfl, by decide⟩
/-- A state in mid-frame on both sides, an escape half sent. -/
theorem witness_EveryStepKeepsTheInvariant :
    Inv (queued { inEnc 4 true with decState := .escaping, decCount := 12 } [.ports (byteIn 0xC0)]) ∧
    ∃ t, step (queued { inEnc 4 true with decState := .escaping, decCount := 12 } [.ports (byteIn 0xC0)]) = .next t :=
  ⟨⟨by unfold DecInv; decide, ⟨fun _ => ⟨rfl, 0xC0, rfl, by decide⟩, by decide⟩, by unfold PortInv; decide⟩, _, rfl⟩

theorem witness_ByteStepIsDecStep :
    (queued (inDec .inFrame 12 e1.content) [.ports (byteIn 0xC0)]).inputs = [.ports (byteIn 0xC0)] ∧
    (byteIn 0xC0).rst = false ∧ (byteIn 0xC0).rxValid = true := by decide
theorem witness_RunIsDeframe :
    (queued State.reset (.ports (byteIn 0xC0) :: [.ports sink])).inputs =
      [byteIn 0xC0, sink].map .ports ++ [] ∧ ∀ p ∈ [byteIn 0xC0, sink], p.rst = false := by decide
theorem witness_IdleAbsorbsNonDelimiters :
    (decRegs State.reset).state = .idle ∧ Config.END ∉ [(0xDB : Byte), 0xDC, 0xDD] := by decide
theorem witness_FrameSequenceIsDeliveredInOrder :
    Config.END ∉ [(0x00 : Byte), 0xDB] ∧ ∀ x ∈ [(e1, []), (e2, [(0xDB : Byte)])], Config.END ∉ x.2 := by decide
theorem witness_OutOfPhaseEveryFrameIsLost :
    ((decRegs (inDec .inFrame 11 e1.content)).state = .inFrame ∧ (decRegs (inDec .inFrame 11 e1.content)).count ≠ 12) ∧
    ((decRegs (inDec .inFrame 12 e1.content)).state = .inFrame ∧ (decRegs (inDec .inFrame 12 e1.content)).count = 12) ∧
    (decRegs (inDec .escaping 0 e1.content)).state = .escaping ∧
    ((decRegs (inDec .inFrame 0 e1.content)).state = .inFrame ∧ (decRegs (inDec .inFrame 0 e1.content)).count = 0) := by
  decide
theorem witness_BadEscapeInMidFrameLosesAllThatFollows :
    (decRegs (inDec .escaping 6 e1.content)).state = .escaping ∧ (0xC0 : Byte) ≠ Config.ESC_END ∧
    (0xC0 : Byte) ≠ Config.ESC_ESC ∧ Config.END ∉ [(0x03 : Byte), 0xDB] := by decide
theorem witness_OneExtraEndRestoresPhase :
    ((decRegs (inDec .inFrame 0 e1.content)).state = .inFrame ∧ (decRegs (inDec .inFrame 0 e1.content)).count ≠ 12) ∧
    ((decRegs (inDec .inFrame 12 e1.content)).state = .inFrame ∧ (decRegs (inDec .inFrame 12 e1.content)).count = 12) := by
  decide
theorem witness_ShortAndLongFrames : (decRegs State.reset).state = .idle := by decide
theorem witness_EventsAreSpaced :
    (decStep (decRegs (inDec .inFrame 12 e1.content)) 0xC0).2 ≠ none ∧ (decRegs State.reset).state = .idle ∧
    [(0xC0 : Byte)].length < 2 ∧ ((encodeFrame e1).dropLast).length = 13 := by decide
theorem witness_EveryStepKeepsTheStreamOwed :
    EncInv (inEnc 4 true) ∧ (queued (inEnc 4 true) [.ports sink]).inputs = [.ports sink] ∧ sink.rst = false ∧
    ∃ t, step (queued (inEnc 4 true) [.ports sink]) = .next t :=
  ⟨⟨fun _ => ⟨rfl, 0xC0, rfl, by decide⟩, by decide⟩, rfl, rfl, _, rfl⟩
/-- The whole frame of E2: as many ready steps as it has bytes, and one fewer. -/
theorem witness_SequencerEmitsEncode :
    State.reset.encBusy = false ∧ (offer e2).rst = false ∧ (offer e2).txDgValid = true ∧ (offer e2).datagram = e2 ∧
    (∀ q ∈ List.replicate 17 sink, q.rst = false) ∧
    readyCount (List.replicate 17 sink) ≤ (encodeFrame (offer e2).datagram).length ∧
    readyCount (List.replicate 16 sink) < (encodeFrame (offer e2).datagram).length := by decide
theorem witness_TransmittedStreamIsWholeFrames :
    EncInv State.reset ∧ State.reset.encBusy = false ∧ (∀ p ∈ [offer e1, sink], p.rst = false) ∧
    (queued State.reset [.ports (offer e1), .ports sink]).inputs = [offer e1, sink].map .ports ++ [] ∧
    acceptedIn 2 (queued State.reset [.ports (offer e1), .ports sink]) = [e1] :=
  ⟨⟨by decide, by decide⟩, by decide, by decide, by decide, by decide⟩

end Sys2Proof.Tests
end

section
namespace Sys2Proof.Machine

open Config

/-! ## What each operation does, as one guard and one effect

Every meaning of an agent is `guarded` (Ops.lean). The layer below names, once for all operations of an agent, the
guard and what the agent's half of the state becomes. The decoder's effect is a function of the decoder's registers,
the encoder's of the encoder's; each is written into its own half only. -/

/-! ### The decoder -/

/-- The state with the decoder's half replaced: its registers, and the ports and history of the event raised. -/
@[simps] def applyDec (r : DecRegs × Option Event) (s : State) : State :=
  { s with decState := r.1.state, decCount := r.1.count, decBuf := r.1.buf
           decOut := decOutOf r.2, events := s.events ++ r.2.toList }

/-- Where a decoder operation is taken: in the decoder state its row states, on a byte its row stands for
(30_encoding.md R52), and `DEC.NOP` everywhere (41_decoder.md R88). -/
def decTaken (i : Instr) (st : DecState) : Bool :=
  i == .decNop || (sourceOf i == some (.rx st) && i.wf)

/-- What a decoder operation does where it is taken (41_decoder.md R80 to R88). -/
def decEffect (i : Instr) (r : DecRegs) : DecRegs × Option Event :=
  match i with
  | .decIdleEnd => ({ r with state := .inFrame, count := 0 }, none)
  | .decInframeEnd =>
      ({ r with state := .idle, count := 0 },
       some (if r.count = 12 then .datagram (Datagram.ofContent r.buf) else .error .shortFrame))
  | .decInframeEsc => ({ r with state := .escaping }, none)
  | .decInframeData b => (decStore r b, none)
  | .decEscEnd => (decStore r END, none)
  | .decEscEsc => (decStore r ESC, none)
  | .decEscBad _ => ({ r with state := .idle, count := 0 }, some (.error .badEscape))
  | _ => (r, none)

@[simp] theorem decStore_state (r : DecRegs) (v : Byte) : (decStore r v).state = .inFrame := by
  unfold decStore; split <;> rfl

@[simp] theorem decRegs_applyDec (r : DecRegs × Option Event) (s : State) : decRegs (applyDec r s) = r.1 := rfl

/-- Storing a byte without an event: `append` with the state machine in `InFrame` is a storing row of R89. -/
theorem append_emitNone_eq_applyDec (v : Byte) (s : State) :
    { append v (emitNone s) with decState := .inFrame } = applyDec (decStore (decRegs s) v, none) s := by
  rcases append_cases v (emitNone s) with ⟨h, happ⟩ | ⟨hfull, happ⟩ <;> rw [happ]
  · have hlt : s.decCount.val < 12 := h
    simp [applyDec, decStore, decRegs, hlt, emitNone, memWrite]
  · have hfull' : s.decCount = 12 := hfull
    simp [applyDec, decStore, decRegs, hfull', emitNone]

/-- A guarded answer depends on the state behind the guard only where the guard holds. -/
theorem guarded_congr {c c' : Bool} {u u' : State} (hc : c = c') (hu : c = true → u = u') :
    guarded c u = guarded c' u' := by
  subst hc
  cases c with
  | false => rfl
  | true => rw [hu rfl]

/-- The reasoning rule of the decoder's operations: the meaning of each is its effect on the decoder's half, run under
its guard. -/
theorem exec_dec (i : Instr) (s : State) (hi : ∃ st, sourceOf i = some (.rx st)) :
    exec i s = guarded (decTaken i s.decState) (applyDec (decEffect i (decRegs s)) s) := by
  obtain ⟨st, hst⟩ := hi
  cases i with
  | decIdleEnd =>
    refine guarded_congr (by cases s.decState <;> rfl) fun _ => ?_
    simp [emitNone, applyDec, decEffect, decRegs]
  | decIdleSkip b =>
    refine guarded_congr (by cases s.decState <;> rfl) fun _ => ?_
    simp [emitNone, applyDec, decEffect, decRegs]
  | decInframeEnd =>
    refine guarded_congr (by cases s.decState <;> rfl) fun _ => ?_
    split <;> rename_i h <;> simp [h, applyDec, decEffect, decRegs, emitDg, raise, emitEvent, accumulated]
  | decInframeEsc =>
    refine guarded_congr (by cases s.decState <;> rfl) fun _ => ?_
    simp [emitNone, applyDec, decEffect, decRegs]
  | decInframeData b =>
    refine guarded_congr (by cases s.decState <;> rfl) fun h => ?_
    have hstate : s.decState = .inFrame := by
      rw [Bool.and_eq_true, beq_iff_eq] at h
      exact h.1
    calc append b (emitNone s)
        = { append b (emitNone s) with decState := .inFrame } := by
          rw [← hstate, ← emitNone_decState s, ← append_decState b]
      _ = applyDec (decStore (decRegs s) b, none) s := append_emitNone_eq_applyDec b s
  | decEscEnd =>
    exact guarded_congr (by cases s.decState <;> rfl) fun _ => append_emitNone_eq_applyDec END s
  | decEscEsc =>
    exact guarded_congr (by cases s.decState <;> rfl) fun _ => append_emitNone_eq_applyDec ESC s
  | decEscBad b =>
    refine guarded_congr (by cases s.decState <;> rfl) fun _ => ?_
    simp [raise, emitEvent, applyDec, decEffect, decRegs]
  | decNop => simp [exec, execDecNop, decTaken, decEffect, applyDec, decRegs, emitNone, guarded]
  | _ => cases hst

/-- A byte on the received stream selects an operation of the decoder's state, with an operand its row stands for. -/
theorem decodeRx_spec (st : DecState) (b : Byte) :
    sourceOf (decodeRx st b) = some (.rx st) ∧ (decodeRx st b).wf = true := by
  cases st <;> dsimp only [decodeRx] <;> split_ifs <;> simp [sourceOf, Instr.wf, *]

/-- The effect of the operation a byte selects is `dec_step`, the table of 41_decoder.md R89. -/
theorem decEffect_decodeRx (r : DecRegs) (b : Byte) : decEffect (decodeRx r.state b) r = decStep r b := by
  dsimp only [decodeRx, decStep]
  cases r.state <;> dsimp only <;> split_ifs <;> simp [decEffect, *]

theorem selectDec_of_byte {p : Ports} {s : State} (hvalid : p.rxValid = true) :
    selectDec p s = decodeRx s.decState p.rxData := by simp [selectDec, hvalid]

theorem selectDec_of_no_byte {p : Ports} {s : State} (hvalid : p.rxValid = false) : selectDec p s = .decNop := by
  simp [selectDec, hvalid]

/-- The operation the decoder selects is one of its own. -/
theorem sourceOf_selectDec (p : Ports) (s : State) : ∃ st, sourceOf (selectDec p s) = some (.rx st) := by
  unfold selectDec
  split
  · exact ⟨_, (decodeRx_spec s.decState p.rxData).1⟩
  · exact ⟨_, rfl⟩

/-- The operation the decoder selects is taken. -/
theorem decTaken_selectDec (p : Ports) (s : State) : decTaken (selectDec p s) s.decState = true := by
  unfold selectDec
  split
  · obtain ⟨hsrc, hwf⟩ := decodeRx_spec s.decState p.rxData
    simp [decTaken, hsrc, hwf]
  · rfl

/-! ### The encoder -/

/-- The encoder's half of the state after an operation: its registers, its ports and the bytes it transferred. -/
structure EncHalf where
  busy : Bool
  pos : Fin 14
  esc : Bool
  buf : Content
  out : EncOut
  sent : List Byte

/-- The state with the encoder's half replaced. -/
@[simps] def applyEnc (e : EncHalf) (s : State) : State :=
  { s with encBusy := e.busy, encPos := e.pos, encEsc := e.esc, encBuf := e.buf
           encOut := e.out, wire := s.wire ++ e.sent }

/-- Where an operation of the encoder's sequencer is taken: the conditions of 40_encoder.md R66 to R73. -/
def encTaken (j : Instr) (s : State) : Bool :=
  match j with
  | .encOpen => s.encBusy && s.encPos == 0
  | .encLit => s.encBusy && (cur s).any fun c => !s.encEsc && !needsEscape c
  | .encEsc1 => s.encBusy && (cur s).any fun c => !s.encEsc && needsEscape c
  | .encEsc2 => s.encBusy && (cur s).any fun _ => s.encEsc
  | .encClose => s.encBusy && s.encPos == 13
  | .encStall => s.encBusy
  | _ => !s.encBusy

/-- An opening or closing delimiter is sent where there is no content byte. -/
theorem cur_of_encTaken_delimiter {j : Instr} {s : State} (hj : j = .encOpen ∨ j = .encClose)
    (h : encTaken j s = true) : s.encBusy = true ∧ cur s = none := by
  rw [cur_eq_none_iff]
  rcases hj with rfl | rfl <;> simp only [encTaken, Bool.and_eq_true, beq_iff_eq] at h
  · exact ⟨h.1, .inl h.2⟩
  · exact ⟨h.1, .inr h.2⟩

theorem encTaken_encLit_iff (s : State) : encTaken .encLit s = true ↔
    s.encBusy = true ∧ ∃ c, cur s = some c ∧ s.encEsc = false ∧ needsEscape c = false := by
  cases hcur : cur s <;> simp [encTaken, hcur]

theorem encTaken_encEsc1_iff (s : State) : encTaken .encEsc1 s = true ↔
    s.encBusy = true ∧ ∃ c, cur s = some c ∧ s.encEsc = false ∧ needsEscape c = true := by
  cases hcur : cur s <;> simp [encTaken, hcur]

theorem encTaken_encEsc2_iff (s : State) : encTaken .encEsc2 s = true ↔
    s.encBusy = true ∧ ∃ c, cur s = some c ∧ s.encEsc = true := by
  cases hcur : cur s <;> simp [encTaken, hcur]

/-- The encoder's half when the byte on `tx_data` is transferred and no register changes. -/
def sending (s : State) : EncHalf :=
  { busy := s.encBusy, pos := s.encPos, esc := s.encEsc, buf := s.encBuf
    out := encOutBusy (txData s), sent := [txData s] }

/-- What an operation of the encoder's sequencer does where it is taken (40_encoder.md R66 to R73). -/
def encEffect (j : Instr) (s : State) : EncHalf :=
  match j with
  | .encLoad d => { busy := true, pos := 0, esc := false, buf := d.content, out := encOutFree, sent := [] }
  | .encOpen => { sending s with pos := 1 }
  | .encLit => { sending s with pos := (advancePos s).encPos }
  | .encEsc1 => { sending s with esc := true }
  | .encEsc2 => { sending s with pos := (advancePos s).encPos, esc := false }
  | .encClose => { sending s with busy := false }
  | .encStall => { sending s with sent := [] }
  | _ => { sending s with out := encOutFree, sent := [] }

/-- The reasoning rule of the sequencer's operations: the meaning of each is its effect on the encoder's half, run
under its guard. The byte transferred is the one on `tx_data`. -/
theorem exec_enc (j : Instr) (s : State) (hsrc : sourceOf j = none) (hj : j ≠ .reset) :
    exec j s = guarded (encTaken j s) (applyEnc (encEffect j s) s) := by
  cases j with
  | encLoad d => exact guarded_congr rfl fun _ => by simp [offerReady, applyEnc, encEffect]
  | encStall => exact guarded_congr rfl fun _ => by simp [holdTx, applyEnc, encEffect, sending]
  | encWait => exact guarded_congr rfl fun _ => by simp [offerReady, applyEnc, encEffect, sending]
  | encOpen =>
    refine guarded_congr rfl fun h => ?_
    have hcur : cur s = none := (cur_eq_none_iff s).2 (.inl (by simpa using (Bool.and_eq_true_iff.1 h).2))
    simp [emitTx, applyEnc, encEffect, sending, txData, hcur]
  | encClose =>
    refine guarded_congr rfl fun h => ?_
    have hcur : cur s = none := (cur_eq_none_iff s).2 (.inr (by simpa using (Bool.and_eq_true_iff.1 h).2))
    simp [emitTx, applyEnc, encEffect, sending, txData, hcur]
  | encLit =>
    cases hcur : cur s with
    | none => simp [exec, execEncLit, encTaken, hcur, guarded]
    | some c =>
      simp only [exec, execEncLit, encTaken, hcur, Option.any_some, Bool.and_assoc]
      refine guarded_congr rfl fun h => ?_
      simp only [Bool.and_eq_true, Bool.not_eq_true'] at h
      simp [emitTx, applyEnc, encEffect, sending, txData, hcur, advancePos, h]
  | encEsc1 =>
    cases hcur : cur s with
    | none => simp [exec, execEncEsc1, encTaken, hcur, guarded]
    | some c =>
      simp only [exec, execEncEsc1, encTaken, hcur, Option.any_some, Bool.and_assoc]
      refine guarded_congr rfl fun h => ?_
      simp only [Bool.and_eq_true, Bool.not_eq_true'] at h
      simp [emitTx, applyEnc, encEffect, sending, txData, hcur, h]
  | encEsc2 =>
    cases hcur : cur s with
    | none => simp [exec, execEncEsc2, encTaken, hcur, guarded]
    | some c =>
      simp only [exec, execEncEsc2, encTaken, hcur, Option.any_some]
      refine guarded_congr rfl fun h => ?_
      simp only [Bool.and_eq_true] at h
      simp [emitTx, applyEnc, encEffect, sending, txData, hcur, advancePos, h]
  | reset => exact absurd rfl hj
  | _ => cases hsrc

theorem selectEnc_of_sink {p : Ports} {s : State} (hbusy : s.encBusy = true) (hsink : p.txReady = true) :
    selectEnc p s = selectEmit s := by simp [selectEnc, hbusy, hsink]

theorem selectEnc_of_no_sink {p : Ports} {s : State} (hbusy : s.encBusy = true) (hsink : p.txReady = false) :
    selectEnc p s = .encStall := by simp [selectEnc, hbusy, hsink]

theorem selectEnc_of_offer {p : Ports} {s : State} (hfree : s.encBusy = false) (hoffer : p.txDgValid = true) :
    selectEnc p s = .encLoad p.datagram := by simp [selectEnc, hfree, hoffer]

theorem selectEnc_of_no_offer {p : Ports} {s : State} (hfree : s.encBusy = false) (hoffer : p.txDgValid = false) :
    selectEnc p s = .encWait := by simp [selectEnc, hfree, hoffer]

/-- The operation a busy encoder with a ready sink selects is one of the sequencer's, and is taken. -/
theorem selectEmit_spec (s : State) (hbusy : s.encBusy = true) :
    sourceOf (selectEmit s) = none ∧ selectEmit s ≠ .reset ∧ encTaken (selectEmit s) s = true := by
  unfold selectEmit
  cases hcur : cur s with
  | none =>
    rcases (cur_eq_none_iff s).1 hcur with hpos | hpos <;> simp [hpos, sourceOf, encTaken, hbusy]
  | some c => dsimp only; split_ifs <;> simp [sourceOf, encTaken, *]

/-- The operation the sequencer selects is one of its own, and is taken. -/
theorem selectEnc_spec (p : Ports) (s : State) :
    sourceOf (selectEnc p s) = none ∧ selectEnc p s ≠ .reset ∧ encTaken (selectEnc p s) s = true := by
  unfold selectEnc
  split_ifs with hbusy
  · exact selectEmit_spec s hbusy
  all_goals simp [sourceOf, encTaken, hbusy]

/-! ### The two halves are apart -/

theorem applyEnc_applyDec (e : EncHalf) (r : DecRegs × Option Event) (s : State) :
    applyEnc e (applyDec r s) = applyDec r (applyEnc e s) := rfl

@[simp] theorem decRegs_applyEnc (e : EncHalf) (s : State) : decRegs (applyEnc e s) = decRegs s := rfl

@[simp] theorem encTaken_applyDec (j : Instr) (r : DecRegs × Option Event) (s : State) :
    encTaken j (applyDec r s) = encTaken j s := by cases j <;> rfl

@[simp] theorem encEffect_applyDec (j : Instr) (r : DecRegs × Option Event) (s : State) :
    encEffect j (applyDec r s) = encEffect j s := by cases j <;> rfl

@[simp] theorem selectEnc_applyDec (p : Ports) (r : DecRegs × Option Event) (s : State) :
    selectEnc p (applyDec r s) = selectEnc p s := rfl

/-! ### Every operation -/

/-- The state a reset step leaves (70_reset_and_hazards.md R117, R118). -/
@[simps] def resetRegs (s : State) : State :=
  { s with decState := .idle, decCount := 0, encBusy := false, encPos := 0, encEsc := false
           decOut := decOutOf none, encOut := encOutReset }

/-- `RESET` keeps `dec_buf` (70_reset_and_hazards.md R117). -/
theorem decRegs_resetRegs (s : State) :
    decRegs (resetRegs s) = { state := .idle, count := 0, buf := (decRegs s).buf } := rfl

@[simp] theorem exec_reset (s : State) : exec .reset s = .next (resetRegs s) := rfl

/-- A call with a content byte returns its wire bytes (40_encoder.md R59 to R61). -/
theorem exec_decodeContent (b : Byte) (s : State) : exec (decodeContent b) s = .next (returnBytes (stuff b) s) := by
  unfold decodeContent stuff
  split_ifs with hend hesc
  · rfl
  · rfl
  · simp [exec, execStuffLit, Instr.wf, hend, hesc]

/-- `FRAME` returns the frame of its datagram (40_encoder.md R62). -/
theorem exec_frame (d : Datagram) (s : State) : exec (.frame d) s = .next (returnBytes (encodeFrame d) s) := rfl

/-- Everything an operation that completes can do. -/
theorem exec_cases {i : Instr} {s t : State} (h : exec i s = .next t) :
    ((∃ st, sourceOf i = some (.rx st)) ∧ decTaken i s.decState = true ∧ t = applyDec (decEffect i (decRegs s)) s) ∨
    (sourceOf i = none ∧ encTaken i s = true ∧ t = applyEnc (encEffect i s) s) ∨
    (∃ bs, t = returnBytes bs s) ∨
    (i = .reset ∧ t = resetRegs s) := by
  rcases hsrc : sourceOf i with _ | st | _ | _
  · by_cases hi : i = .reset
    · rw [hi, exec_reset] at h
      cases h
      exact .inr (.inr (.inr ⟨hi, rfl⟩))
    · rw [exec_enc i s hsrc hi, guarded_eq_next] at h
      exact .inr (.inl ⟨rfl, h.1, h.2.symm⟩)
  · rw [exec_dec i s ⟨st, hsrc⟩, guarded_eq_next] at h
    exact .inl ⟨⟨st, rfl⟩, h.1, h.2.symm⟩
  · refine .inr (.inr (.inl ?_))
    cases i with
    | stuffLit b => exact ⟨[b], ((guarded_eq_next _ _ _).1 h).2.symm⟩
    | stuffEnd => exact ⟨_, (Host.Outcome.next.inj h).symm⟩
    | stuffEsc => exact ⟨_, (Host.Outcome.next.inj h).symm⟩
    | _ => cases hsrc
  · refine .inr (.inr (.inl ?_))
    cases i with
    | frame d => exact ⟨_, (Host.Outcome.next.inj h).symm⟩
    | _ => cases hsrc

/-! ### Every step -/

/-- The state a clock step leaves: `RESET`, or the effects of the two selected operations on their own halves. -/
def clockNext (p : Ports) (s : State) : State :=
  if p.rst then resetRegs s
  else applyEnc (encEffect (selectEnc p s) s) (applyDec (decEffect (selectDec p s) (decRegs s)) s)

theorem clockNext_of_rst {p : Ports} (s : State) (h : p.rst = true) : clockNext p s = resetRegs s := by
  simp [clockNext, h]

theorem clockNext_of_not_rst {p : Ports} (s : State) (h : p.rst = false) :
    clockNext p s = applyEnc (encEffect (selectEnc p s) s) (applyDec (decEffect (selectDec p s) (decRegs s)) s) := by
  simp [clockNext, h]

@[simp] theorem clockNext_inputs (p : Ports) (s : State) : (clockNext p s).inputs = s.inputs := by
  unfold clockNext; split <;> rfl

/-- The selected operation of the decoder runs, and has its effect. -/
theorem exec_selectDec (p : Ports) (s : State) :
    exec (selectDec p s) s = .next (applyDec (decEffect (selectDec p s) (decRegs s)) s) := by
  rw [exec_dec _ s (sourceOf_selectDec p s), decTaken_selectDec]
  rfl

/-- The selected operation of the sequencer runs, and has its effect. -/
theorem exec_selectEnc (p : Ports) (s : State) :
    exec (selectEnc p s) s = .next (applyEnc (encEffect (selectEnc p s) s) s) := by
  obtain ⟨hsrc, hj, htaken⟩ := selectEnc_spec p s
  rw [exec_enc _ s hsrc hj, htaken]
  rfl

/-- After the decoder's operation the sequencer's selected operation runs, and has the same effect. -/
theorem exec_selectEnc_applyDec (p : Ports) (r : DecRegs × Option Event) (s : State) :
    exec (selectEnc p s) (applyDec r s) = .next (applyEnc (encEffect (selectEnc p s) s) (applyDec r s)) := by
  simpa using exec_selectEnc p (applyDec r s)

/-- A clock step always completes. -/
theorem clockStep_eq (p : Ports) (s : State) : clockStep p s = .next (clockNext p s) := by
  cases h : p.rst with
  | true => simp [clockStep, clockNext, h]
  | false =>
    rw [clockStep_of_not_rst p s h, exec_selectDec, andThen_next, exec_selectEnc_applyDec, clockNext_of_not_rst s h]

/-- A step that takes a clock step from the queue. -/
theorem step_ports {s : State} {p : Ports} {rest : List Stimulus} (h : s.inputs = .ports p :: rest) :
    step s = .next (clockNext p { s with inputs := rest }) := by
  rw [step_cons s _ rest h]
  exact clockStep_eq p _

/-- Every step completes: a clock step, or a call that returns bytes. -/
theorem step_next_cases (s : State) : ∃ rest,
    (∃ p, step s = .next (clockNext p { s with inputs := rest })) ∨
    (∃ bs, step s = .next (returnBytes bs { s with inputs := rest })) := by
  rcases step_cases s with ⟨p, rest, hs, -⟩ | ⟨b, rest, -, hstep⟩ | ⟨d, rest, -, hstep⟩ | ⟨hs, hstep⟩
  · exact ⟨rest, .inl ⟨p, step_ports hs⟩⟩
  · exact ⟨rest, .inr ⟨stuff b, hstep.trans (exec_decodeContent b _)⟩⟩
  · exact ⟨rest, .inr ⟨encodeFrame d, hstep.trans (exec_frame d _)⟩⟩
  · exact ⟨s.inputs, .inl ⟨quietPorts, hstep.trans (clockStep_eq quietPorts s)⟩⟩

end Sys2Proof.Machine
end

section
namespace Sys2Proof.Machine

/-! ## The invariant of the machine -/

/-- The decoder's effects keep count 0 in `Idle` (10_state.md R12). -/
theorem decInv_applyDec (i : Instr) (s : State) (h : DecInv s) : DecInv (applyDec (decEffect i (decRegs s)) s) := by
  unfold DecInv
  cases i with
  | decIdleEnd | decInframeEnd | decInframeEsc | decInframeData | decEscEnd | decEscEsc | decEscBad =>
    simp [decEffect]
  | _ => exact h

/-- With no escape half sent, the encoder's invariant holds. -/
theorem encInv_of_esc_false {s : State} (h : s.encEsc = false) : EncInv s := by
  simp [EncInv, h]

/-- No escape is half sent at a delimiter (10_state.md R17). -/
theorem encEsc_of_cur_eq_none {s : State} (h : EncInv s) (hcur : cur s = none) : s.encEsc = false := by
  by_contra hesc
  obtain ⟨-, c, hc, -⟩ := h.1 (by simpa using hesc)
  simp [hcur] at hc

/-- Every operation of the sequencer keeps the encoder's invariant where it is taken (10_state.md R17). -/
theorem encInv_applyEnc (j : Instr) (s : State) (htaken : encTaken j s = true) (h : EncInv s) :
    EncInv (applyEnc (encEffect j s) s) := by
  cases j with
  | encLoad d => exact encInv_of_esc_false rfl
  | encOpen =>
    obtain ⟨-, hcur⟩ := cur_of_encTaken_delimiter (.inl rfl) htaken
    exact encInv_of_esc_false (show s.encEsc = false from encEsc_of_cur_eq_none h hcur)
  | encLit =>
    obtain ⟨-, c, -, hesc, -⟩ := (encTaken_encLit_iff s).1 htaken
    exact encInv_of_esc_false (show s.encEsc = false from hesc)
  | encEsc1 =>
    obtain ⟨hbusy, c, hcur, -, hneed⟩ := (encTaken_encEsc1_iff s).1 htaken
    refine ⟨fun _ => ⟨hbusy, c, hcur, (needsEscape_iff c).1 hneed⟩, fun hfree => ?_⟩
    exact absurd (hbusy.symm.trans hfree) (by decide)
  | encEsc2 => exact encInv_of_esc_false rfl
  | encClose =>
    obtain ⟨-, hcur⟩ := cur_of_encTaken_delimiter (.inr rfl) htaken
    exact encInv_of_esc_false (show s.encEsc = false from encEsc_of_cur_eq_none h hcur)
  | _ => exact h

/-- The encoder's ports in any step: a byte, a free encoder, or a reset (10_state.md R21, R22). -/
def IsEncOut (o : EncOut) : Prop := (∃ b, o = encOutBusy b) ∨ o = encOutFree ∨ o = encOutReset

theorem isEncOut_encEffect (j : Instr) (s : State) : IsEncOut (encEffect j s).out := by
  cases j with
  | encOpen | encLit | encEsc1 | encEsc2 | encClose | encStall => exact .inl ⟨_, rfl⟩
  | _ => exact .inr (.inl rfl)

/-- The ports fit together whatever event the decoder shows and whichever of its outputs the encoder does. -/
theorem portInv_of_out {s : State} (e : Option Event) (hdec : s.decOut = decOutOf e) (henc : IsEncOut s.encOut) :
    PortInv s := by
  have hencOut : (s.encOut.txValid = true ↔ s.encOut.txData.isSome = true) ∧
      ¬ (s.encOut.txDgReady = true ∧ s.encOut.txValid = true) := by
    rcases henc with ⟨b, h⟩ | h | h <;> simp [h, encOutBusy, encOutFree, encOutReset]
  unfold PortInv
  rw [hdec]
  rcases e with _ | d | k
  · simpa [decOutOf] using hencOut
  · simpa [decOutOf] using hencOut
  · cases k <;> simpa [decOutOf, errKindCode] using hencOut

/-- A clock step keeps the encoder's invariant. -/
theorem encInv_clockNext (p : Ports) (s : State) (h : EncInv s) : EncInv (clockNext p s) := by
  cases hrst : p.rst with
  | true =>
    rw [clockNext_of_rst s hrst]
    exact encInv_of_esc_false rfl
  | false =>
    obtain ⟨-, -, htaken⟩ := selectEnc_spec p s
    rw [clockNext_of_not_rst s hrst]
    exact encInv_applyEnc _ s htaken h

/-- A clock step keeps the invariant of the machine. -/
theorem inv_clockNext (p : Ports) (s : State) (h : Inv s) : Inv (clockNext p s) := by
  obtain ⟨hdec, henc, -⟩ := h
  refine ⟨?_, encInv_clockNext p s henc, ?_⟩
  · unfold clockNext
    split
    · exact fun _ => rfl
    · exact decInv_applyDec _ s hdec
  · unfold clockNext
    split
    · exact portInv_of_out none rfl (.inr (.inr rfl))
    · exact portInv_of_out _ rfl (isEncOut_encEffect _ s)

/-- Settles O42: a clock step keeps each part of the invariant, and a call of the function layer touches no part. -/
theorem everyStepKeepsTheInvariant : Obligations.EveryStepKeepsTheInvariant := by
  intro s t hinv hstep
  obtain ⟨rest, ⟨p, h⟩ | ⟨bs, h⟩⟩ := step_next_cases s <;> obtain rfl := Host.Outcome.next.inj (hstep.symm.trans h)
  · exact inv_clockNext p { s with inputs := rest } hinv
  · exact hinv

/-- Settles O41. -/
theorem invariantHoldsAtReset : Obligations.InvariantHoldsAtReset :=
  ⟨fun _ => rfl, encInv_of_esc_false rfl, portInv_of_out none rfl (.inr (.inr rfl))⟩

end Sys2Proof.Machine
end

section
namespace Sys2Proof.Machine

/-! ## What a step depends on, and what it leaves alone -/

/-- Settles O19. -/
theorem decoderPortsShowTheEvent : Obligations.DecoderPortsShowTheEvent :=
  ⟨rfl, fun _ => rfl, rfl, rfl⟩

/-- Every run completes: a step always answers a next state. -/
theorem run_completes (n : Nat) (s : State) : ∃ t, run n s = .next t := by
  induction n generalizing s with
  | zero => exact ⟨s, rfl⟩
  | succ n ih =>
    obtain ⟨u, hu⟩ : ∃ u, step s = .next u := by
      obtain ⟨rest, ⟨p, h⟩ | ⟨bs, h⟩⟩ := step_next_cases s <;> exact ⟨_, h⟩
    obtain ⟨t, ht⟩ := ih u
    exact ⟨t, by rw [run, hu, andThen_next, ht]⟩

/-- Settles O35. -/
theorem everyRunIsSafe : Obligations.EveryRunIsSafe := run_completes

/-- A run whose first step is known. -/
theorem run_succ_of_step {n : Nat} {s u : State} (h : step s = .next u) : run (n + 1) s = run n u := by
  rw [run, h, andThen_next]

/-- The encoder's selection looks at the sink while busy, and at the offer while free (10_state.md R21, R22). -/
theorem selectEnc_congr {p q : Ports} {s : State}
    (hbusy : s.encBusy = true → p.txReady = q.txReady)
    (hfree : s.encBusy = false → p.txDgValid = q.txDgValid ∧ (p.txDgValid = true → p.datagram = q.datagram)) :
    selectEnc p s = selectEnc q s := by
  unfold selectEnc
  cases h : s.encBusy with
  | true => simp [hbusy h]
  | false =>
    obtain ⟨hvalid, hdata⟩ := hfree h
    cases hv : p.txDgValid with
    | true => simp [← hvalid, hv, hdata hv]
    | false => simp [← hvalid, hv]

/-- The decoder's selection looks at the byte where there is one (10_state.md R18). -/
theorem selectDec_congr {p q : Ports} {s s' : State} (hstate : s.decState = s'.decState)
    (hvalid : p.rxValid = q.rxValid) (hdata : p.rxValid = true → p.rxData = q.rxData) :
    selectDec p s = selectDec q s' := by
  unfold selectDec
  cases hv : p.rxValid with
  | true => simp [← hvalid, hv, hstate, hdata hv]
  | false => simp [← hvalid, hv]

/-- Settles O37: the inputs the rules ignore do not change what either agent selects. -/
theorem ignoredInputsHaveNoEffect : Obligations.IgnoredInputsHaveNoEffect := by
  intro s p q rest hrst h
  rw [step_ports (p := p) (rest := rest) rfl, step_ports (p := q) (rest := rest) rfl]
  congr 1
  cases hp : p.rst with
  | true => rw [clockNext_of_rst _ hp, clockNext_of_rst _ (hrst ▸ hp)]
  | false =>
    obtain ⟨hvalid, hdata, hbusy, hfree⟩ := h hp
    have hdec : selectDec p { s with inputs := rest } = selectDec q { s with inputs := rest } :=
      selectDec_congr rfl hvalid hdata
    have henc : selectEnc p { s with inputs := rest } = selectEnc q { s with inputs := rest } := by
      refine selectEnc_congr hbusy fun hb => ⟨(hfree hb).1, fun hv => ?_⟩
      obtain ⟨hheader, hpayload⟩ := (hfree hb).2 hv
      rw [Ports.datagram, Ports.datagram, hheader, hpayload]
    rw [clockNext_of_not_rst _ hp, clockNext_of_not_rst _ (hrst ▸ hp), hdec, henc]

/-- Settles O36: without a byte the decoder runs `DEC.NOP`, and an encoder with nothing to do runs `ENC.WAIT` or
`ENC.STALL`; none of them changes a register. -/
theorem emptyStepsChangeNothing : Obligations.EmptyStepsChangeNothing := by
  intro s p rest hin hrst
  refine ⟨_, step_ports hin, fun hvalid => ?_, fun hidle => ?_⟩ <;> rw [clockNext_of_not_rst _ hrst]
  · rw [selectDec_of_no_byte hvalid]
    exact ⟨rfl, rfl, List.append_nil _⟩
  · rcases hidle with ⟨hbusy, hoffer⟩ | ⟨hbusy, hsink⟩
    · rw [selectEnc_of_no_offer (s := { s with inputs := rest }) hbusy hoffer]
      exact ⟨rfl, rfl, rfl, rfl, List.append_nil _⟩
    · rw [selectEnc_of_no_sink (s := { s with inputs := rest }) hbusy hsink]
      exact ⟨rfl, rfl, rfl, rfl, List.append_nil _⟩

/-- Settles O38: each operation reads and writes its own agent's half only. -/
theorem agentsOperationsCommute : Obligations.AgentsOperationsCommute := by
  intro i j s hi hsrc hj
  rw [exec_dec i s hi, exec_enc j s hsrc hj]
  cases hdec : decTaken i s.decState <;> cases henc : encTaken j s <;>
    simp [guarded, andThen, exec_dec i _ hi, exec_enc j _ hsrc hj, hdec, henc, applyEnc_applyDec]

/-- Two states whose encoders hold the same registers (10_state.md R13 to R16). -/
def SameEnc (s s' : State) : Prop :=
  s.encBusy = s'.encBusy ∧ s.encPos = s'.encPos ∧ s.encEsc = s'.encEsc ∧ s.encBuf = s'.encBuf

/-- The encoder's selection is a function of its registers and its input ports. -/
theorem SameEnc.selectEnc_eq {s s' : State} (h : SameEnc s s') (p : Ports) : selectEnc p s = selectEnc p s' := by
  obtain ⟨hbusy, hpos, hesc, hbuf⟩ := h
  cases s
  cases s'
  cases hbusy; cases hpos; cases hesc; cases hbuf
  rfl

/-- The effect of an operation of the sequencer is a function of the encoder's registers. -/
theorem SameEnc.encEffect_eq {s s' : State} (h : SameEnc s s') (j : Instr) : encEffect j s = encEffect j s' := by
  obtain ⟨hbusy, hpos, hesc, hbuf⟩ := h
  cases s
  cases s'
  cases hbusy; cases hpos; cases hesc; cases hbuf
  cases j <;> rfl

/-- Settles O39: each agent's half after a clock step is its effect, a function of its own registers and ports. -/
theorem agentsSeeOnlyTheirOwnState : Obligations.AgentsSeeOnlyTheirOwnState := by
  intro s s' t t' p p' rest rest' hin hin' hrst hstep hstep'
  obtain rfl := Host.Outcome.next.inj ((step_ports hin).symm.trans hstep)
  obtain rfl := Host.Outcome.next.inj ((step_ports hin').symm.trans hstep')
  refine ⟨fun hregs hvalid hdata => ?_, fun hbusy hpos hesc hbuf hoffer hdg hsink => ?_⟩
  · have hregs' : decRegs { s with inputs := rest } = decRegs { s' with inputs := rest' } := hregs
    cases hp : p.rst with
    | true =>
      rw [clockNext_of_rst _ hp, clockNext_of_rst _ (hrst ▸ hp), decRegs_resetRegs, decRegs_resetRegs, hregs']
      exact ⟨rfl, rfl⟩
    | false =>
      have hsel : selectDec p { s with inputs := rest } = selectDec p' { s' with inputs := rest' } :=
        selectDec_congr (congrArg DecRegs.state hregs) hvalid fun _ => hdata
      rw [clockNext_of_not_rst _ hp, clockNext_of_not_rst _ (hrst ▸ hp), hsel, hregs']
      exact ⟨rfl, rfl⟩
  · have hsame : SameEnc { s with inputs := rest } { s' with inputs := rest' } := ⟨hbusy, hpos, hesc, hbuf⟩
    cases hp : p.rst with
    | true =>
      rw [clockNext_of_rst _ hp, clockNext_of_rst _ (hrst ▸ hp)]
      exact ⟨rfl, rfl, rfl, hbuf, rfl⟩
    | false =>
      have hsel : selectEnc p { s with inputs := rest } = selectEnc p' { s' with inputs := rest' } :=
        (selectEnc_congr (fun _ => hsink) fun _ => ⟨hoffer, fun _ => hdg⟩).trans (hsame.selectEnc_eq p')
      rw [clockNext_of_not_rst _ hp, clockNext_of_not_rst _ (hrst ▸ hp), hsel, hsame.encEffect_eq]
      exact ⟨rfl, rfl, rfl, rfl, rfl⟩

/-! ## Who writes which register, and who transfers -/

/-- Storing a byte is the only effect of the decoder that writes `dec_buf` (10_state.md R11). -/
theorem decEffect_buf {i : Instr} {r : DecRegs} (h : (decEffect i r).1.buf ≠ r.buf) :
    (∃ b, i = .decInframeData b) ∨ i = .decEscEnd ∨ i = .decEscEsc := by
  cases i with
  | decInframeData b => exact .inl ⟨b, rfl⟩
  | decEscEnd => exact .inr (.inl rfl)
  | decEscEsc => exact .inr (.inr rfl)
  | _ => exact absurd rfl h

/-- `ENC.LOAD` is the only effect of the encoder that writes `enc_buf` (10_state.md R14). -/
theorem encEffect_buf {j : Instr} {s : State} (h : (encEffect j s).buf ≠ s.encBuf) : ∃ d, j = .encLoad d := by
  cases j with
  | encLoad d => exact ⟨d, rfl⟩
  | _ => exact absurd rfl h

/-- An effect of the encoder that transfers a byte is that of an emit operation, and the byte is the one on `tx_data`
(60_exceptions.md R116). -/
theorem encEffect_sent {j : Instr} {s : State} (h : (encEffect j s).sent ≠ []) :
    (j = .encOpen ∨ j = .encLit ∨ j = .encEsc1 ∨ j = .encEsc2 ∨ j = .encClose) ∧
    (encEffect j s).sent = [txData s] ∧ (encEffect j s).out = encOutBusy (txData s) := by
  cases j with
  | encOpen | encLit | encEsc1 | encEsc2 | encClose => exact ⟨by simp, rfl, rfl⟩
  | _ => exact absurd rfl h

/-- An emit operation is taken by a busy encoder only. -/
theorem encBusy_of_encTaken {j : Instr} {s : State}
    (hj : j = .encOpen ∨ j = .encLit ∨ j = .encEsc1 ∨ j = .encEsc2 ∨ j = .encClose) (h : encTaken j s = true) :
    s.encBusy = true := by
  rcases hj with rfl | rfl | rfl | rfl | rfl <;> exact (Bool.and_eq_true_iff.1 h).1

/-- Settles O40: by what the operation is, since each effect is written into its own half. -/
theorem registersChangeOnlyByTheirOwnOperations : Obligations.RegistersChangeOnlyByTheirOwnOperations := by
  intro i s t h
  rcases exec_cases h with ⟨hsrc, -, rfl⟩ | ⟨hsrc, -, rfl⟩ | ⟨bs, rfl⟩ | ⟨rfl, rfl⟩
  · exact ⟨fun _ => .inl hsrc, decEffect_buf, fun hne => by simp at hne, fun hne => absurd rfl hne⟩
  · exact ⟨fun hne => absurd rfl hne, fun hne => absurd rfl hne, fun _ => hsrc, encEffect_buf⟩
  · exact ⟨fun hne => absurd rfl hne, fun hne => absurd rfl hne, fun hne => by simp at hne, fun hne => absurd rfl hne⟩
  · exact ⟨fun _ => .inr rfl, fun hne => absurd rfl hne, fun _ => rfl, fun hne => absurd rfl hne⟩

/-- Settles O31: a byte is transferred by an effect of the encoder, and that one sends the byte on `tx_data`. -/
theorem onlyEmitOperationsTransferBytes : Obligations.OnlyEmitOperationsTransferBytes := by
  intro i s t h hwire
  rcases exec_cases h with ⟨-, -, rfl⟩ | ⟨-, htaken, rfl⟩ | ⟨bs, rfl⟩ | ⟨-, rfl⟩
  · exact absurd rfl hwire
  · have hsent : (encEffect i s).sent ≠ [] := fun hnil => hwire (by simp [hnil])
    obtain ⟨hemit, hbyte, hout⟩ := encEffect_sent hsent
    exact ⟨hemit, encBusy_of_encTaken hemit htaken, congrArg (s.wire ++ ·) hbyte, hout⟩
  · exact absurd rfl hwire
  · exact absurd rfl hwire

/-! ## Reset and the step -/

/-- Settles O33: from `Idle` no byte raises an event, and a free encoder offers to take a datagram. -/
theorem resetValuesAndFirstPorts : Obligations.ResetValuesAndFirstPorts := by
  refine ⟨⟨rfl, rfl, rfl, rfl, rfl⟩, fun s p rest hstate _ hbusy _ _ hin hrst => ⟨_, step_ports hin, ?_⟩⟩
  rw [clockNext_of_not_rst _ hrst]
  have hdec : (decEffect (selectDec p { s with inputs := rest }) (decRegs { s with inputs := rest })).2 = none := by
    simp only [selectDec, decodeRx, hstate]
    split_ifs <;> rfl
  have henc : (encEffect (selectEnc p { s with inputs := rest }) { s with inputs := rest }).out = encOutFree := by
    simp only [selectEnc, hbusy, Bool.false_eq_true, if_false]
    split_ifs <;> rfl
  simp [hdec, henc, decOutOf, encOutFree]

/-- A clock step without reset runs the decoder's selected operation and then the sequencer's. -/
theorem clockNext_runs_selected (p : Ports) (s : State) (hrst : p.rst = false) :
    ∃ t, exec (selectDec p s) s = .next t ∧ exec (selectEnc p s) t = .next (clockNext p s) :=
  ⟨_, exec_selectDec p s, by rw [exec_selectEnc_applyDec, clockNext_of_not_rst s hrst]⟩

/-- Settles O34: each step runs what its queue entry selects, and what is selected completes. -/
theorem stepRunsTheSelectedOperations : Obligations.StepRunsTheSelectedOperations := by
  refine ⟨fun s p rest hin hrst => ?_, fun p s hvalid => ?_, fun s p rest hin hrst => ?_,
    fun s b i rest hin hdec => ?_, fun s d rest hin => step_cons s _ rest hin, fun s hin => ?_⟩
  · obtain ⟨t, hdec, henc⟩ := clockNext_runs_selected p { s with inputs := rest } hrst
    exact ⟨t, _, hdec, henc, step_ports hin⟩
  · simp [decode, selectDec, hvalid]
  · rw [step_ports hin, clockNext_of_rst _ hrst, exec_reset]
  · obtain rfl : decodeContent b = i := by simpa [decode] using hdec
    exact step_cons s _ rest hin
  · obtain ⟨t, hdec, henc⟩ := clockNext_runs_selected quietPorts s rfl
    have hstep : step s = .next (clockNext quietPorts s) := by
      rw [step, nextStimulus_nil s hin]
      exact clockStep_eq quietPorts s
    exact ⟨t, _, hdec, by simpa [selectEnc, quietPorts] using henc, hstep⟩

end Sys2Proof.Machine
end

section
namespace Sys2Proof.Machine

/-! ## The accumulation buffer after any number of appends -/

/-- Any number of appends writes the accumulation buffer and the count only. -/
theorem foldl_append_frame (a : List Byte) (s : State) :
    a.foldl (fun u v => append v u) s = { s with
      decBuf := (a.foldl (fun u v => append v u) s).decBuf
      decCount := (a.foldl (fun u v => append v u) s).decCount } := by
  induction a generalizing s with
  | nil => rfl
  | cons v a ih => rw [List.foldl_cons, ih (append v s)]; simp

/-- Writing the byte after the first bytes of a buffer makes it one of them. -/
theorem set_append_drop {α : Type} (a buf : List α) (v : α) (h : a.length < buf.length) :
    (a ++ buf.drop a.length).set a.length v = (a ++ [v]) ++ buf.drop (a.length + 1) := by
  rw [List.set_append_right _ _ le_rfl, Nat.sub_self, List.drop_eq_getElem_cons h, List.set_cons_zero]
  simp

/-- From count 0, the buffer after any number of appends holds the first 12 bytes, and its old bytes after them
(41_decoder.md R79, R97). -/
theorem foldl_append_buf (a : List Byte) {s : State} (hs : s.decCount = 0) :
    (a.foldl (fun u v => append v u) s).decCount.val = min a.length 12 ∧
    (a.foldl (fun u v => append v u) s).decBuf.toList = a.take 12 ++ s.decBuf.toList.drop (min a.length 12) := by
  induction a using List.reverseRecOn with
  | nil => simp [hs]
  | append_singleton a v ih =>
    rw [List.foldl_append, List.foldl_cons, List.foldl_nil]
    generalize a.foldl (fun u v => append v u) s = t at ih
    obtain ⟨hcount, hbuf⟩ := ih
    rcases append_cases v t with ⟨hlt, happ⟩ | ⟨hfull, happ⟩ <;> rw [happ]
    · have hlen : a.length < 12 := by omega
      have hmin : min a.length 12 = a.length := by omega
      have hmin' : min (a ++ [v]).length 12 = a.length + 1 := by simp; omega
      rw [hmin] at hcount hbuf
      rw [List.take_of_length_le hlen.le] at hbuf
      rw [hmin', List.take_of_length_le (by simpa using hlen), ← set_append_drop a _ v (by simpa using hlen), ← hbuf]
      simp [memWrite, hcount, Vector.toList_set]
    · have hlen : 12 ≤ a.length := by simp [hfull] at hcount; omega
      have hmin : min (a ++ [v]).length 12 = min a.length 12 := by simp; omega
      rw [hmin, List.take_append_of_le_length hlen]
      exact ⟨hcount, hbuf⟩

/-- Settles O20. -/
theorem appendsKeepTheFirstTwelveBytes : Obligations.AppendsKeepTheFirstTwelveBytes := by
  rintro a s t hs rfl
  obtain ⟨hcount, hbuf⟩ := foldl_append_buf a hs
  have hlen : (a.take 12).length = min a.length 12 := by simp [min_comm]
  refine ⟨hcount, ?_, ?_, foldl_append_frame a s⟩ <;> rw [hcount, hbuf]
  · exact List.take_left' hlen
  · exact List.drop_left' hlen

end Sys2Proof.Machine
end

section
namespace Sys2Proof.Machine

open Config

/-! ## The decoder as a function of the byte stream -/

/-- The decoder's half after a clock step without reset is `deframe` of the byte presented, if any (10_state.md R20,
41_decoder.md R91). -/
theorem deframe_clockNext {p : Ports} (s : State) (hrst : p.rst = false) :
    decRegs (clockNext p s) = (deframe (decRegs s) (rxBytes [p])).1 ∧
    (clockNext p s).events = s.events ++ (deframe (decRegs s) (rxBytes [p])).2 := by
  rw [clockNext_of_not_rst s hrst]
  cases hvalid : p.rxValid with
  | true =>
    have heff : decEffect (selectDec p s) (decRegs s) = decStep (decRegs s) p.rxData := by
      rw [selectDec_of_byte hvalid]
      exact decEffect_decodeRx (decRegs s) p.rxData
    simp [heff, rxBytes, hvalid, deframe]
  | false => simp [selectDec_of_no_byte hvalid, rxBytes, hvalid, decEffect, deframe]

theorem deframe_append (r : DecRegs) (u v : List Byte) :
    deframe r (u ++ v) = ((deframe (deframe r u).1 v).1, (deframe r u).2 ++ (deframe (deframe r u).1 v).2) := by
  induction u generalizing r with
  | nil => rfl
  | cons b u ih => simp [deframe, ih]

/-- Settles O44: by induction on the clock steps. -/
theorem runIsDeframe : Obligations.RunIsDeframe := by
  intro ps
  induction ps with
  | nil => exact fun s later hin _ => ⟨s, rfl, hin, rfl, (List.append_nil _).symm⟩
  | cons p ps ih =>
    intro s later hin hrst
    obtain ⟨hp, hps⟩ := List.forall_mem_cons.1 hrst
    have hstep := step_ports (rest := ps.map .ports ++ later) hin
    obtain ⟨hregs, hevents⟩ := deframe_clockNext { s with inputs := ps.map .ports ++ later } hp
    obtain ⟨t, hrun, hlater, hregs', hevents'⟩ :=
      ih (clockNext p { s with inputs := ps.map .ports ++ later }) later (clockNext_inputs p _) hps
    have hbytes : rxBytes (p :: ps) = rxBytes [p] ++ rxBytes ps := List.filterMap_append (l := [p])
    refine ⟨t, (run_succ_of_step hstep).trans hrun, hlater, ?_, ?_⟩
    · rw [hregs', hregs, hbytes, deframe_append]
      rfl
    · rw [hevents', hevents, hregs, hbytes, deframe_append, List.append_assoc]
      rfl

/-! ## The stream the encoder owes -/

/-- At a content byte, what is left of the content is that byte and what follows it. -/
theorem drop_eq_cur_cons {s : State} {c : Byte} (hcur : cur s = some c) :
    s.encBuf.toList.drop (s.encPos.val - 1) = c :: s.encBuf.toList.drop s.encPos.val := by
  obtain ⟨⟨hlo, hhi⟩, rfl⟩ := (cur_eq_some_iff s c).1 hcur
  rw [List.drop_eq_getElem_cons (by simp; omega)]
  simp [memRead, Nat.sub_add_cancel hlo]

/-- The position after a content byte. -/
theorem advancePos_encPos_val {s : State} {c : Byte} (hcur : cur s = some c) :
    (advancePos s).encPos.val = s.encPos.val + 1 := by
  obtain ⟨⟨-, hhi⟩, -⟩ := (cur_eq_some_iff s c).1 hcur
  rw [advancePos_of_lt s (by omega)]

/-- What a busy encoder still owes past the opening delimiter. -/
theorem pendingBytes_of_pos {s : State} (hbusy : s.encBusy = true) (hpos : s.encPos.val ≠ 0) :
    pendingBytes s =
      (stuffAll (s.encBuf.toList.drop (s.encPos.val - 1))).drop (if s.encEsc then 1 else 0) ++ [END] := by
  have hpos' : s.encPos ≠ 0 := fun h => hpos (by simp [h])
  simp [pendingBytes, hbusy, hpos']

/-- At position 13 the closing delimiter is owed (40_encoder.md R71). -/
theorem pendingBytes_of_pos_last {s : State} (hbusy : s.encBusy = true) (hpos : s.encPos = 13) :
    pendingBytes s = [END] := by
  have hnone : s.encBuf.toList.drop 12 = [] := List.drop_of_length_le (by simp)
  rw [pendingBytes_of_pos hbusy (by simp [hpos])]
  simp [hpos, hnone, stuffAll]

/-- A busy encoder transfers the first byte it owes, and owes the others afterwards (40_encoder.md R74). -/
theorem pendingBytes_emit {s : State} (hinv : EncInv s) (hbusy : s.encBusy = true) :
    pendingBytes s = txData s :: pendingBytes (applyEnc (encEffect (selectEmit s) s) s) := by
  cases hcur : cur s with
  | none =>
    have hesc : s.encEsc = false := encEsc_of_cur_eq_none hinv hcur
    have hbyte : txData s = END := by simp [txData, hcur]
    rcases (cur_eq_none_iff s).1 hcur with hpos | hpos
    · simp [pendingBytes, selectEmit, hcur, hpos, encEffect, sending, hbusy, hesc, hbyte, encodeContent]
    · rw [pendingBytes_of_pos_last hbusy hpos]
      simp [pendingBytes, selectEmit, hcur, hpos, encEffect, hbyte]
  | some c =>
    obtain ⟨⟨hlo, -⟩, -⟩ := (cur_eq_some_iff s c).1 hcur
    have hadv := advancePos_encPos_val hcur
    have hrest := drop_eq_cur_cons hcur
    rw [pendingBytes_of_pos hbusy (by omega), hrest]
    cases hesc : s.encEsc with
    | true =>
      obtain ⟨-, c', hc', hneed'⟩ := hinv.1 hesc
      obtain rfl : c = c' := Option.some.inj (hcur.symm.trans hc')
      have hneed : needsEscape c = true := (needsEscape_iff c).2 hneed'
      have hsel : selectEmit s = .encEsc2 := by simp [selectEmit, hcur, hesc]
      rw [hsel, pendingBytes_of_pos (s := applyEnc (encEffect .encEsc2 s) s) hbusy (by simp [encEffect, hadv])]
      simp [encEffect, sending, hadv, stuffAll, stuff_eq, hneed, txData, hcur, hesc]
    | false =>
      cases hneed : needsEscape c with
      | true =>
        have hsel : selectEmit s = .encEsc1 := by simp [selectEmit, hcur, hesc, hneed]
        rw [hsel, pendingBytes_of_pos (s := applyEnc (encEffect .encEsc1 s) s) hbusy (show s.encPos.val ≠ 0 by omega)]
        simp [encEffect, sending, hrest, stuffAll, stuff_eq, hneed, txData, hcur, hesc]
      | false =>
        have hsel : selectEmit s = .encLit := by simp [selectEmit, hcur, hesc, hneed]
        rw [hsel, pendingBytes_of_pos (s := applyEnc (encEffect .encLit s) s) hbusy (by simp [encEffect, hadv])]
        simp [encEffect, sending, hadv, stuffAll, stuff_eq, hneed, txData, hcur, hesc]

/-- A busy encoder with a ready sink transfers the byte on `tx_data` (10_state.md R22). -/
theorem encEffect_selectEmit_sent (s : State) : (encEffect (selectEmit s) s).sent = [txData s] := by
  unfold selectEmit
  cases cur s <;> dsimp only <;> split_ifs <;> rfl

/-- In a clock step without reset, the bytes transferred and those owed grow by the frame of the datagram accepted in
it, if any (40_encoder.md R74). -/
theorem stream_clockNext {p : Ports} {s : State} (hinv : EncInv s) (hrst : p.rst = false) :
    (clockNext p s).wire ++ pendingBytes (clockNext p s) = s.wire ++ pendingBytes s ++ acceptedFrame p s := by
  have hpending : pendingBytes (clockNext p s) = pendingBytes (applyEnc (encEffect (selectEnc p s) s) s) := by
    rw [clockNext_of_not_rst s hrst]
    rfl
  have hwire : (clockNext p s).wire = s.wire ++ (encEffect (selectEnc p s) s).sent := by
    rw [clockNext_of_not_rst s hrst]
    rfl
  rw [hpending, hwire]
  cases hbusy : s.encBusy with
  | true =>
    have hnone : acceptedFrame p s = [] := by simp [acceptedFrame, acceptedBy, hbusy]
    cases hsink : p.txReady with
    | true =>
      rw [selectEnc_of_sink hbusy hsink, encEffect_selectEmit_sent, hnone, pendingBytes_emit hinv hbusy]
      simp
    | false =>
      rw [selectEnc_of_no_sink hbusy hsink, hnone]
      change s.wire ++ [] ++ pendingBytes s = s.wire ++ pendingBytes s ++ []
      simp
  | false =>
    have howed : pendingBytes s = [] := by simp [pendingBytes, hbusy]
    cases hoffer : p.txDgValid with
    | true =>
      rw [selectEnc_of_offer hbusy hoffer, howed]
      simp [encEffect, pendingBytes, acceptedFrame, acceptedBy, hrst, hbusy, hoffer, encodeFrame]
    | false =>
      rw [selectEnc_of_no_offer hbusy hoffer, howed]
      simp [encEffect, sending, pendingBytes, acceptedFrame, acceptedBy, hbusy, hoffer]

/-- Over any run of clock steps without reset, the bytes transferred and those owed grow by the frames of the datagrams
accepted along it (20_memory.md R41, 40_encoder.md R76). -/
theorem stream_run (ps : List Ports) (s : State) (later : List Stimulus) (hinv : EncInv s)
    (hin : s.inputs = ps.map .ports ++ later) (hrst : ∀ p ∈ ps, p.rst = false) :
    ∃ t, run ps.length s = .next t ∧
      t.wire ++ pendingBytes t = s.wire ++ pendingBytes s ++ (acceptedIn ps.length s).flatMap encodeFrame := by
  induction ps generalizing s with
  | nil => exact ⟨s, rfl, (List.append_nil _).symm⟩
  | cons p ps ih =>
    obtain ⟨hp, hps⟩ := List.forall_mem_cons.1 hrst
    have hstep := step_ports (rest := ps.map .ports ++ later) hin
    obtain ⟨t, hrun, hstream⟩ := ih (clockNext p { s with inputs := ps.map .ports ++ later })
      (encInv_clockNext p _ hinv) (clockNext_inputs p _) hps
    refine ⟨t, (run_succ_of_step hstep).trans hrun, ?_⟩
    rw [hstream, stream_clockNext (s := { s with inputs := ps.map .ports ++ later }) hinv hp, List.length_cons,
      acceptedIn_succ _ _ _ hstep, acceptedNext_cons s p _ hin, List.flatMap_append, List.append_assoc]
    rfl

/-- Settles O57: a free encoder owes nothing. -/
theorem transmittedStreamIsWholeFrames : Obligations.TransmittedStreamIsWholeFrames := by
  intro ps s later hinv hbusy hin hrst
  have howed : pendingBytes s = [] := by simp [pendingBytes, hbusy]
  simpa [howed] using stream_run ps s later hinv hin hrst

end Sys2Proof.Machine
end

section
namespace Sys2Proof

open Config

/-! ## Twelve content bytes and a datagram -/

/-- The content of the datagram in a buffer is the buffer (20_memory.md R31). -/
@[simp] theorem content_ofContent (c : Content) : (Datagram.ofContent c).content = c := by
  ext i hi
  interval_cases i <;> rfl

/-- The datagram in the buffer that holds a datagram's content is that datagram. -/
@[simp] theorem ofContent_content (d : Datagram) : Datagram.ofContent d.content = d := by
  obtain ⟨h, p⟩ := d
  simp only [Datagram.ofContent, Datagram.content, Datagram.mk.injEq]
  constructor <;> ext i hi <;> interval_cases i <;> rfl

/-- `ofBytes` reads the first 12 bytes, whatever follows (41_decoder.md R97). -/
theorem ofBytes_content_append (d : Datagram) (l : List Byte) :
    Datagram.ofBytes (d.content.toList ++ l) = some d :=
  congrArg some (ofContent_content d)

theorem ofBytes_content (d : Datagram) : Datagram.ofBytes d.content.toList = some d :=
  congrArg some (ofContent_content d)

/-- Fewer than 12 bytes hold no datagram (30_encoding.md R51). -/
theorem ofBytes_of_length_lt {a : List Byte} (h : a.length < 12) : Datagram.ofBytes a = none := by
  unfold Datagram.ofBytes
  split
  · simp at h; omega
  · rfl

theorem ofBytes_eq_some_iff (a : List Byte) (d : Datagram) :
    Datagram.ofBytes a = some d ↔ d.content.toList <+: a := by
  refine ⟨fun h => ?_, fun ⟨l, hl⟩ => hl ▸ ofBytes_content_append d l⟩
  unfold Datagram.ofBytes at h
  split at h
  · obtain rfl := Option.some.inj h
    exact ⟨_, rfl⟩
  · cases h

/-- A whole frame holds exactly the content of its datagram (30_encoding.md R45). -/
theorem ofExactly_eq_ok_iff (a : List Byte) (d : Datagram) :
    Datagram.ofExactly a = .ok d ↔ a = d.content.toList := by
  unfold Datagram.ofExactly
  constructor
  · intro h
    rcases hbytes : Datagram.ofBytes a with _ | d' <;> rw [hbytes] at h
    · cases h
    · dsimp only at h
      split_ifs at h with hlen
      obtain rfl := Except.ok.inj h
      exact (((ofBytes_eq_some_iff a d').1 hbytes).eq_of_length (by simp [hlen])).symm
  · rintro rfl
    simp [ofBytes_content]

/-! ## Stuffing and its inverse -/

@[simp] theorem stuff_END : stuff END = [ESC, ESC_END] := by simp [stuff]

@[simp] theorem stuff_ESC : stuff ESC = [ESC, ESC_ESC] := by simp [stuff]

theorem stuff_of_ordinary {b : Byte} (hend : b ≠ END) (hesc : b ≠ ESC) : stuff b = [b] := by
  simp [stuff, hend, hesc]

@[simp] theorem stuffAll_nil : stuffAll [] = [] := rfl

@[simp] theorem stuffAll_cons (b : Byte) (a : List Byte) : stuffAll (b :: a) = stuff b ++ stuffAll a := rfl

/-- A mapped answer is a success exactly where the answer itself is one. -/
theorem except_map_eq_ok_iff {ε α β : Type} (f : α → β) (x : Except ε α) (y : β) :
    x.map f = .ok y ↔ ∃ r, x = .ok r ∧ f r = y := by
  cases x <;> simp [Except.map]

@[simp] theorem destuff_END (w : List Byte) : destuff (END :: w) = .ok ([], w) := by rw [destuff.eq_def]; rfl

/-- De-stuffing reads the wire bytes of one content byte as that byte (30_encoding.md R47, R50). -/
theorem destuff_stuff_append (b : Byte) (w : List Byte) :
    destuff (stuff b ++ w) = (destuff w).map fun r => (b :: r.1, r.2) := by
  by_cases hend : b = END
  · simp [hend, destuff]
  · by_cases hesc : b = ESC
    · simp [hesc, destuff]
    · rw [stuff_of_ordinary hend hesc, List.singleton_append, destuff.eq_def]
      simp [hend, hesc]

/-- What de-stuffing takes from the front: the closing `END`, or the wire bytes of one content byte. -/
theorem eq_END_cons_or_eq_stuff_append {w : List Byte} {r : List Byte × List Byte} (h : destuff w = .ok r) :
    (∃ after, w = END :: after) ∨ ∃ b w', w = stuff b ++ w' := by
  rw [destuff.eq_def] at h
  split at h
  · cases h
  · next b rest =>
    split_ifs at h with hend hesc
    · exact .inl ⟨rest, by rw [hend]⟩
    · split at h
      · cases h
      · next c rest' =>
        split_ifs at h with hcend hcesc
        · exact .inr ⟨END, rest', by simp [hesc, hcend]⟩
        · exact .inr ⟨ESC, rest', by simp [hesc, hcesc]⟩
    · exact .inr ⟨b, rest, by simp [stuff_of_ordinary hend hesc]⟩

/-- De-stuffing up to the closing `END` inverts stuffing: it reads `a` from its stuffed form and from nothing else
(30_encoding.md R50). -/
theorem destuff_eq_ok_iff (w a after : List Byte) :
    destuff w = .ok (a, after) ↔ w = stuffAll a ++ END :: after := by
  constructor
  · intro h
    induction a generalizing w with
    | nil =>
      rcases eq_END_cons_or_eq_stuff_append h with ⟨after', rfl⟩ | ⟨b, w', rfl⟩
      · simpa using h
      · rw [destuff_stuff_append, except_map_eq_ok_iff] at h
        simp at h
    | cons c a ih =>
      rcases eq_END_cons_or_eq_stuff_append h with ⟨after', rfl⟩ | ⟨b, w', rfl⟩
      · simp at h
      · rw [destuff_stuff_append, except_map_eq_ok_iff] at h
        obtain ⟨r, hr, heq⟩ := h
        obtain ⟨⟨rfl, rfl⟩, rfl⟩ : (b = c ∧ r.1 = a) ∧ r.2 = after := by simpa using heq
        rw [ih w' hr, stuffAll_cons, List.append_assoc]
  · rintro rfl
    induction a with
    | nil => exact destuff_END after
    | cons b a ih => rw [stuffAll_cons, List.append_assoc, destuff_stuff_append, ih]; rfl

/-- A frame is read from the front of a byte sequence exactly where it stands there (30_encoding.md R45, R50). -/
theorem decodeFrame_eq_ok_iff (w after : List Byte) (d : Datagram) :
    decodeFrame w = .ok (d, after) ↔ w = encodeFrame d ++ after := by
  constructor
  · intro h
    rcases w with _ | ⟨b, rest⟩
    · cases h
    · dsimp only [decodeFrame] at h
      split_ifs at h with hend
      rcases hdestuff : destuff rest with e | ⟨a, after'⟩ <;> rw [hdestuff] at h
      · cases h
      · obtain ⟨d', hd', heq⟩ := (except_map_eq_ok_iff _ _ _).1 h
        obtain ⟨rfl, rfl⟩ := Prod.mk.inj heq
        rw [hend, (destuff_eq_ok_iff _ _ _).1 hdestuff, (ofExactly_eq_ok_iff _ _).1 hd']
        simp [encodeFrame, encodeContent]
  · rintro rfl
    have hdestuff := (destuff_eq_ok_iff _ d.content.toList after).2 rfl
    have hexact := (ofExactly_eq_ok_iff _ d).2 rfl
    simp [encodeFrame, encodeContent, decodeFrame, hdestuff, hexact, Except.map]

/-! ## The word of an operation -/

/-- The word of the operation a received byte selects is that byte (30_encoding.md R52). -/
theorem encode_decodeRx (st : DecState) (b : Byte) : encode (decodeRx st b) = [b] := by
  cases st <;> dsimp only [decodeRx] <;> split_ifs <;> simp [encode, *]

/-- The operation a content byte selects: read from the content, with an operand its row stands for, and with that byte
as its word (30_encoding.md R53). -/
theorem decodeContent_spec (b : Byte) :
    sourceOf (decodeContent b) = some .content ∧ (decodeContent b).wf = true ∧ encode (decodeContent b) = [b] := by
  unfold decodeContent
  split_ifs <;> simp [sourceOf, Instr.wf, encode, *]

/-- A well-formed decoder operation other than `DEC.NOP` has one byte as its word, and this byte selects it. -/
theorem exists_byte_of_source_rx {i : Instr} {st : DecState} (hwf : i.wf = true) (hsrc : sourceOf i = some (.rx st))
    (hnop : i ≠ .decNop) : ∃ b, encode i = [b] ∧ decodeRx st b = i := by
  cases i with
  | decIdleEnd | decInframeEnd | decInframeEsc | decEscEnd | decEscEsc =>
    cases hsrc
    exact ⟨_, rfl, rfl⟩
  | decIdleSkip b | decInframeData b | decEscBad b =>
    cases hsrc
    exact ⟨b, rfl, by simp_all [decodeRx, Instr.wf]⟩
  | decNop => exact absurd rfl hnop
  | _ => cases hsrc

/-- A well-formed `STUFF` operation has one byte as its word, and this byte selects it. -/
theorem exists_byte_of_source_content {i : Instr} (hwf : i.wf = true) (hsrc : sourceOf i = some .content) :
    ∃ b, encode i = [b] ∧ decodeContent b = i := by
  cases i with
  | stuffEnd | stuffEsc => exact ⟨_, rfl, rfl⟩
  | stuffLit b => exact ⟨b, rfl, by simp_all [decodeContent, Instr.wf]⟩
  | _ => cases hsrc

/-- `FRAME` is the only operation whose word is a frame. -/
theorem exists_datagram_of_source_frame {i : Instr} (hsrc : sourceOf i = some .frame) : ∃ d, i = .frame d := by
  cases i with
  | frame d => exact ⟨d, rfl⟩
  | _ => cases hsrc

/-- Reading at the frame source gives `FRAME` of the datagram whose frame stands there, and nothing else. -/
theorem decode_frame_eq_ok_iff (w after : List Byte) (i : Instr) :
    decode .frame w = .ok (i, after) ↔ ∃ d, i = .frame d ∧ w = encodeFrame d ++ after := by
  simp only [decode, except_map_eq_ok_iff, Prod.exists, decodeFrame_eq_ok_iff, Prod.mk.injEq]
  constructor
  · rintro ⟨d, _, hw, rfl, rfl⟩
    exact ⟨d, rfl, hw⟩
  · rintro ⟨d, rfl, hw⟩
    exact ⟨d, after, hw, rfl, rfl⟩

/-- Settles O6: a byte's operation is selected by its byte, and a frame is read where it stands. -/
theorem everyWordDecodesToItsOperation : Obligations.EveryWordDecodesToItsOperation := by
  refine ⟨fun i src after hwf hsrc hnop => ?_, fun st => rfl⟩
  cases src with
  | rx st =>
    obtain ⟨b, hword, hsel⟩ := exists_byte_of_source_rx hwf hsrc hnop
    rw [hword, ← hsel]
    rfl
  | content =>
    obtain ⟨b, hword, hsel⟩ := exists_byte_of_source_content hwf hsrc
    rw [hword, ← hsel]
    rfl
  | frame =>
    obtain ⟨d, rfl⟩ := exists_datagram_of_source_frame hsrc
    exact (decode_frame_eq_ok_iff _ _ _).2 ⟨d, rfl, rfl⟩

/-- Settles O7: what a byte selects has that byte as its word, and a frame is read from its own encoding only. -/
theorem everyDecodedOperationHasThatWord : Obligations.EveryDecodedOperationHasThatWord := by
  intro src bs after i h
  cases src with
  | rx st =>
    cases bs with
    | nil =>
      cases h
      exact ⟨rfl, rfl, .inr ⟨rfl, rfl⟩⟩
    | cons b rest =>
      cases h
      obtain ⟨hsrc, hwf⟩ := Machine.decodeRx_spec st b
      exact ⟨hwf, by rw [encode_decodeRx]; rfl, .inl hsrc⟩
  | content =>
    cases bs with
    | nil => cases h
    | cons b rest =>
      cases h
      obtain ⟨hsrc, hwf, hword⟩ := decodeContent_spec b
      exact ⟨hwf, by rw [hword]; rfl, .inl hsrc⟩
  | frame =>
    obtain ⟨d, rfl, rfl⟩ := (decode_frame_eq_ok_iff _ _ _).1 h
    exact ⟨rfl, rfl, .inl rfl⟩

/-- Settles O9: an operation runs where its guard holds, and a byte whose operation's guard holds selects it. -/
theorem everyByteSelectsExactlyOneOperation : Obligations.EveryByteSelectsExactlyOneOperation := by
  refine ⟨fun b => rfl, fun b => rfl, fun b => rfl, fun s b i hsrc hword => ?_⟩
  have hnop : i ≠ .decNop := by
    rintro rfl
    cases hword
  have hruns : (∃ t, Machine.exec i s = .next t) ↔ sourceOf i = some (.rx s.decState) ∧ i.wf = true := by
    rw [Machine.exec_dec i s hsrc]
    simp [Machine.decTaken, hnop]
  rw [hruns]
  constructor
  · rintro ⟨hstate, hwf⟩
    obtain ⟨b', hword', hsel⟩ := exists_byte_of_source_rx hwf hstate hnop
    obtain rfl : b' = b := List.singleton_inj.1 (hword'.symm.trans hword)
    exact hsel.symm
  · rintro rfl
    exact Machine.decodeRx_spec s.decState b

/-- Settles O4. -/
theorem frameIsDelimitedStuffedContent : Obligations.FrameIsDelimitedStuffedContent := by
  refine ⟨stuff_END, stuff_ESC, fun b hend hesc => stuff_of_ordinary hend hesc, fun d s => ?_⟩
  rw [Machine.exec_frame]
  simp [Machine.returnBytes, encodeFrame, encodeContent, Datagram.content]

end Sys2Proof
end

section
namespace Sys2Proof.Machine

open Config

/-! ## What the decoder makes of a stuffed byte list -/

theorem decStep_of_idle_END {r : DecRegs} (h : r.state = .idle) :
    decStep r END = ({ r with state := .inFrame, count := 0 }, none) := by
  simp [decStep, h]

theorem decStep_of_inFrame_END {r : DecRegs} (h : r.state = .inFrame) :
    decStep r END = ({ r with state := .idle, count := 0 },
      some (if r.count = 12 then .datagram (Datagram.ofContent r.buf) else .error .shortFrame)) := by
  simp [decStep, h]

/-- In a frame, the wire bytes of one content byte store that byte and raise nothing (30_encoding.md R47). -/
theorem deframe_stuff {r : DecRegs} (h : r.state = .inFrame) (b : Byte) :
    deframe r (stuff b) = (decStore r b, []) := by
  by_cases hend : b = END
  · simp [hend, deframe, decStep, h, decStore]
  · by_cases hesc : b = ESC
    · simp [hesc, deframe, decStep, h, decStore]
    · simp [stuff_of_ordinary hend hesc, deframe, decStep, h, hend, hesc]

theorem foldl_decStore_state {r : DecRegs} (h : r.state = .inFrame) (a : List Byte) :
    (a.foldl decStore r).state = .inFrame := by
  induction a generalizing r with
  | nil => exact h
  | cons b a ih => exact ih (decStore_state r b)

/-- In a frame, the stuffed form of a byte list stores the bytes one by one and raises nothing (41_decoder.md R96). -/
theorem deframe_stuffAll {r : DecRegs} (h : r.state = .inFrame) (a : List Byte) :
    deframe r (stuffAll a) = (a.foldl decStore r, []) := by
  induction a generalizing r with
  | nil => rfl
  | cons b a ih => rw [stuffAll_cons, deframe_append, deframe_stuff h, ih (decStore_state r b)]; rfl

/-- A storing row of R89 is `append` on the registers of a machine in `InFrame`. -/
theorem decRegs_append {s : State} (h : s.decState = .inFrame) (v : Byte) :
    decRegs (append v s) = decStore (decRegs s) v := by
  rcases append_cases v s with ⟨hlt, happ⟩ | ⟨hfull, happ⟩ <;> rw [happ]
  · simp [decRegs, decStore, hlt, h, memWrite]
  · simp [decRegs, decStore, hfull, h]

theorem decRegs_foldl_append (a : List Byte) {s : State} (h : s.decState = .inFrame) :
    decRegs (a.foldl (fun u v => append v u) s) = a.foldl decStore (decRegs s) := by
  induction a generalizing s with
  | nil => rfl
  | cons v a ih =>
    rw [List.foldl_cons, List.foldl_cons, ih ((append_decState v s).trans h), decRegs_append h]

/-- From count 0, the registers after any number of stores hold the first 12 bytes (41_decoder.md R79, R97). -/
theorem foldl_decStore_of_count_zero (a : List Byte) {r : DecRegs} (hstate : r.state = .inFrame)
    (hcount : r.count = 0) :
    (a.foldl decStore r).count.val = min a.length 12 ∧
    (a.foldl decStore r).buf.toList = a.take 12 ++ r.buf.toList.drop (min a.length 12) := by
  have h := foldl_append_buf a (s := applyDec (r, none) State.reset) hcount
  have hregs := decRegs_foldl_append a (s := applyDec (r, none) State.reset) hstate
  rw [decRegs_applyDec] at hregs
  rw [← hregs]
  exact h

/-- The event of a frame with content bytes `a` (41_decoder.md R82, R97): the datagram of the first 12, or
`ShortFrame`. -/
def frameEvent (a : List Byte) : Event := ((Datagram.ofBytes a).map Event.datagram).getD (.error .shortFrame)

/-- The closing `END` raises the event of the bytes stored since the opening one. -/
theorem closing_event_eq_frameEvent (a : List Byte) {r : DecRegs} (hstate : r.state = .inFrame) (hcount : r.count = 0) :
    (if (a.foldl decStore r).count = 12 then Event.datagram (Datagram.ofContent (a.foldl decStore r).buf)
      else .error .shortFrame) = frameEvent a := by
  obtain ⟨hcount', hbuf⟩ := foldl_decStore_of_count_zero a hstate hcount
  generalize a.foldl decStore r = t at hcount' hbuf
  have hfull : t.count = 12 ↔ 12 ≤ a.length := by
    rw [Fin.ext_iff, hcount']
    exact min_eq_right_iff
  split_ifs with h
  · have hlen := hfull.1 h
    have hread : Datagram.ofBytes a = some (Datagram.ofContent t.buf) := by
      rw [ofBytes_eq_some_iff, content_ofContent, hbuf, min_eq_right hlen, List.drop_of_length_le (by simp),
        List.append_nil]
      exact ⟨a.drop 12, List.take_append_drop 12 a⟩
    rw [frameEvent, hread]
    rfl
  · have hlen : a.length < 12 := by rwa [hfull, not_le] at h
    rw [frameEvent, ofBytes_of_length_lt hlen]
    rfl

/-- From `Idle`, the frame of any byte list raises its event alone and leaves the decoder in `Idle` (41_decoder.md R96,
R97). -/
theorem deframe_frame (a : List Byte) {r : DecRegs} (h : r.state = .idle) :
    deframe r ([END] ++ stuffAll a ++ [END]) =
      ({ state := .idle, count := 0, buf := (a.foldl decStore { r with state := .inFrame, count := 0 }).buf },
       [frameEvent a]) := by
  have hopen : deframe r [END] = ({ r with state := .inFrame, count := 0 }, []) := by
    simp [deframe, decStep_of_idle_END h]
  rw [deframe_append, deframe_append, hopen, deframe_stuffAll rfl]
  have hclose := decStep_of_inFrame_END (foldl_decStore_state (r := { r with state := .inFrame, count := 0 }) rfl a)
  rw [closing_event_eq_frameEvent a rfl rfl] at hclose
  simp [deframe, hclose]

/-- Settles O52: the opening `END`, the stores, and the closing `END` that raises the one event. -/
theorem shortAndLongFrames : Obligations.ShortAndLongFrames := by
  intro a r h
  rw [deframe_frame a h]
  exact ⟨rfl, rfl, rfl⟩

end Sys2Proof.Machine
end

section
namespace Sys2Proof

open Config

/-! ## The laws of `encode` -/

/-- A content byte is sent as one byte, or as two if it is `END` or `ESC` (30_encoding.md R47). -/
theorem stuff_length (b : Byte) : (stuff b).length = 1 + if b == END || b == ESC then 1 else 0 := by
  by_cases hend : b = END
  · simp [hend]
  · by_cases hesc : b = ESC
    · simp [hesc]
    · simp [stuff_of_ordinary hend hesc, hend, hesc]

theorem stuffAll_length (a : List Byte) :
    (stuffAll a).length = a.length + a.countP fun b => b == END || b == ESC := by
  induction a with
  | nil => rfl
  | cons b a ih =>
    rw [stuffAll_cons, List.length_append, stuff_length, ih, List.length_cons, List.countP_cons]
    omega

theorem END_notMem_stuff (b : Byte) : END ∉ stuff b := by
  by_cases hend : b = END
  · simp [hend]
  · by_cases hesc : b = ESC
    · simp [hesc]
    · simpa [stuff_of_ordinary hend hesc] using Ne.symm hend

/-- Stuffed bytes hold no `END` (40_encoder.md R63 (b)). -/
theorem END_notMem_stuffAll (a : List Byte) : END ∉ stuffAll a := by
  simp [stuffAll, END_notMem_stuff]

/-- In the wire bytes of one content byte, `ESC` stands before one byte, `ESC_END` or `ESC_ESC`. -/
theorem after_ESC_of_stuff {b : Byte} {before after : List Byte} (h : stuff b = before ++ ESC :: after) :
    after = [ESC_END] ∨ after = [ESC_ESC] := by
  by_cases hend : b = END
  · rcases before with _ | ⟨x, _ | ⟨y, before⟩⟩ <;> simp_all
  · by_cases hesc : b = ESC
    · rcases before with _ | ⟨x, _ | ⟨y, before⟩⟩ <;> simp_all
    · rcases before with _ | ⟨x, before⟩ <;> simp_all [stuff_of_ordinary hend hesc]

/-- Up to the closing `END`, every `ESC` is followed by `ESC_END` or `ESC_ESC` (40_encoder.md R63 (c)). -/
theorem after_ESC_of_stuffAll {a before after : List Byte} (h : stuffAll a ++ [END] = before ++ ESC :: after) :
    ∃ rest, after = ESC_END :: rest ∨ after = ESC_ESC :: rest := by
  induction a generalizing before with
  | nil => rcases before with _ | ⟨x, before⟩ <;> simp at h
  | cons b a ih =>
    rw [stuffAll_cons, List.append_assoc, List.append_eq_append_iff] at h
    rcases h with ⟨before', -, h⟩ | ⟨_ | ⟨x, tail⟩, hstuff, h⟩
    · exact ih h
    · exact ih (before := []) h.symm
    · obtain ⟨rfl, rfl⟩ := List.cons.inj h
      rcases after_ESC_of_stuff hstuff with rfl | rfl
      · exact ⟨_, .inl rfl⟩
      · exact ⟨_, .inr rfl⟩

/-- A frame is recognised at the front of a byte sequence: it is neither another datagram's frame nor the beginning of
one (40_encoder.md R63 (d), (e)). -/
theorem encodeFrame_append_inj {d d' : Datagram} {l l' : List Byte} (h : encodeFrame d ++ l = encodeFrame d' ++ l') :
    d = d' ∧ l = l' := by
  have hd := (decodeFrame_eq_ok_iff _ l d).2 rfl
  have hd' := (decodeFrame_eq_ok_iff _ l' d').2 h
  simpa using hd.symm.trans hd'

/-- Settles O5: (a) to (c) from the same laws of stuffing, (d) and (e) since a frame is read from its own encoding
only. -/
theorem encodeLengthDelimitersAndInjectivity : Obligations.EncodeLengthDelimitersAndInjectivity := by
  refine ⟨fun d => ?_, fun d => ⟨_, rfl, END_notMem_stuffAll _⟩, fun d before after h => ?_, fun d d' h => ?_,
    fun d d' ⟨l, h⟩ => ?_⟩
  · have hlen : (encodeFrame d).length = 14 + d.content.toList.countP fun b => b == END || b == ESC := by
      simp only [encodeFrame, encodeContent, List.length_append, List.length_singleton, stuffAll_length,
        Vector.length_toList]
      omega
    have hcount := List.countP_le_length (p := fun b => b == END || b == ESC) (l := d.content.toList)
    rw [Vector.length_toList] at hcount
    exact ⟨hlen, by omega, by omega⟩
  · rcases before with _ | ⟨x, before⟩
    · exact absurd (List.cons.inj h).1 END_ne_ESC
    · exact after_ESC_of_stuffAll (List.cons.inj h).2
  · exact (encodeFrame_append_inj (congrArg (· ++ []) h)).1
  · rw [(encodeFrame_append_inj (h.trans (List.append_nil _).symm)).1]

/-! ## The function layer, one content byte -/

theorem decodeContent_of_ordinary {b : Byte} (hend : b ≠ END) (hesc : b ≠ ESC) : decodeContent b = .stuffLit b := by
  simp [decodeContent, hend, hesc]

/-- Settles O1: a call with a content byte returns its stuffed form, for an ordinary byte the byte itself. -/
theorem ordinaryByteIsReturnedVerbatim : Obligations.OrdinaryByteIsReturnedVerbatim := by
  intro b s hend hesc
  have hsel := decodeContent_of_ordinary hend hesc
  have hexec := Machine.exec_decodeContent b s
  rw [hsel, stuff_of_ordinary hend hesc] at hexec
  exact ⟨hsel, hexec⟩

/-- Settles O2: a call with a content byte returns its stuffed form. -/
theorem delimiterValueIsStuffed : Obligations.DelimiterValueIsStuffed :=
  ⟨rfl, Machine.exec_decodeContent END⟩

/-- Settles O3: a call with a content byte returns its stuffed form. -/
theorem escapeValueIsStuffed : Obligations.EscapeValueIsStuffed :=
  ⟨rfl, Machine.exec_decodeContent ESC⟩

end Sys2Proof
end

section
namespace Sys2Proof.Machine

open Config

/-! ## One step of the stream the encoder owes -/

theorem clockNext_wire {p : Ports} (s : State) (hrst : p.rst = false) :
    (clockNext p s).wire = s.wire ++ (encEffect (selectEnc p s) s).sent := by
  rw [clockNext_of_not_rst s hrst]
  rfl

/-- One byte is transferred in a step where the encoder is busy and the sink ready, none in any other (10_state.md
R22). -/
theorem encEffect_selectEnc_sent (p : Ports) (s : State) :
    (encEffect (selectEnc p s) s).sent = if s.encBusy && p.txReady then [txData s] else [] := by
  cases hbusy : s.encBusy with
  | true =>
    cases hsink : p.txReady with
    | true => exact (selectEnc_of_sink hbusy hsink) ▸ encEffect_selectEmit_sent s
    | false => rw [selectEnc_of_no_sink hbusy hsink]; rfl
  | false =>
    cases hoffer : p.txDgValid with
    | true => rw [selectEnc_of_offer hbusy hoffer]; rfl
    | false => rw [selectEnc_of_no_offer hbusy hoffer]; rfl

theorem clockNext_wire_length {p : Ports} (s : State) (hrst : p.rst = false) :
    (clockNext p s).wire.length = s.wire.length + if s.encBusy && p.txReady then 1 else 0 := by
  rw [clockNext_wire s hrst, encEffect_selectEnc_sent, List.length_append]
  split <;> rfl

/-- Settles O55: a step with a clock entry is `clockNext`, whose stream and transferred bytes are known. -/
theorem everyStepKeepsTheStreamOwed : Obligations.EveryStepKeepsTheStreamOwed := by
  intro s t p rest hinv hin hrst hstep
  obtain rfl := Host.Outcome.next.inj (hstep.symm.trans (step_ports hin))
  exact ⟨stream_clockNext (s := { s with inputs := rest }) hinv hrst, clockNext_wire_length _ hrst⟩

/-! ## The bytes a frame's steps transfer -/

theorem encBusy_of_pendingBytes_ne_nil {s : State} (h : pendingBytes s ≠ []) : s.encBusy = true := by
  by_contra hfree
  exact h (by simp [pendingBytes, hfree])

/-- While bytes `w` are owed before all others, a step transfers the first of them if the sink is ready, and owes the
rest of them before all others afterwards. -/
theorem owed_clockNext {p : Ports} {s : State} {w : List Byte} (hinv : EncInv s) (hrst : p.rst = false)
    (howed : w <+: pendingBytes s) (hle : readyCount [p] ≤ w.length) :
    (clockNext p s).wire = s.wire ++ w.take (readyCount [p]) ∧
    w.drop (readyCount [p]) <+: pendingBytes (clockNext p s) := by
  obtain ⟨v, hv⟩ := howed
  have hsent : (if s.encBusy && p.txReady then 1 else 0) = readyCount [p] := by
    cases hsink : p.txReady with
    | false => simp [readyCount, hsink]
    | true =>
      have hw : w ≠ [] := by
        rintro rfl
        simp [readyCount, hsink] at hle
      have hbusy : s.encBusy = true := encBusy_of_pendingBytes_ne_nil (by simp [← hv, hw])
      simp [readyCount, hsink, hbusy]
  have hlen : (clockNext p s).wire.length = (s.wire ++ w.take (readyCount [p])).length := by
    rw [clockNext_wire_length s hrst, hsent, List.length_append, List.length_take_of_le hle]
  have hstream : (clockNext p s).wire ++ pendingBytes (clockNext p s) =
      (s.wire ++ w.take (readyCount [p])) ++ (w.drop (readyCount [p]) ++ (v ++ acceptedFrame p s)) := by
    rw [stream_clockNext hinv hrst, ← hv]
    simp only [List.append_assoc]
    rw [← List.append_assoc (w.take _), List.take_append_drop]
  obtain ⟨hwire, hpending⟩ := List.append_inj hstream hlen
  exact ⟨hwire, _, hpending.symm⟩

/-- While bytes `w` are owed before all others, a run without reset transfers as many of them as it has steps with a
ready sink, in order, and owes the rest of them afterwards (40_encoder.md R74). -/
theorem owed_run (ps : List Ports) {s : State} {w : List Byte} {later : List Stimulus} (hinv : EncInv s)
    (hin : s.inputs = ps.map .ports ++ later) (hrst : ∀ p ∈ ps, p.rst = false)
    (howed : w <+: pendingBytes s) (hle : readyCount ps ≤ w.length) :
    ∃ t, run ps.length s = .next t ∧ t.wire = s.wire ++ w.take (readyCount ps) ∧
      w.drop (readyCount ps) <+: pendingBytes t := by
  induction ps generalizing s w with
  | nil => exact ⟨s, rfl, (List.append_nil _).symm, howed⟩
  | cons p ps ih =>
    obtain ⟨hp, hps⟩ := List.forall_mem_cons.1 hrst
    have hcount : readyCount (p :: ps) = readyCount [p] + readyCount ps := List.countP_append (l₁ := [p])
    rw [hcount] at hle ⊢
    have hinv' := encInv_clockNext p { s with inputs := ps.map .ports ++ later } hinv
    obtain ⟨hwire, howed'⟩ := owed_clockNext (s := { s with inputs := ps.map .ports ++ later }) hinv hp howed
      (by omega)
    have hle' : readyCount ps ≤ (w.drop (readyCount [p])).length := by rw [List.length_drop]; omega
    obtain ⟨t, hrun, hwire', hrest⟩ := ih hinv' (clockNext_inputs p _) hps howed' hle'
    refine ⟨t, (run_succ_of_step (step_ports hin)).trans hrun, ?_, ?_⟩
    · rw [hwire', hwire, List.take_add, List.append_assoc]
    · rwa [List.drop_drop] at hrest

/-- A free encoder that is offered a datagram accepts it, transfers nothing and owes its frame (40_encoder.md R66). -/
theorem clockNext_of_offer {p : Ports} {s : State} (hfree : s.encBusy = false) (hrst : p.rst = false)
    (hoffer : p.txDgValid = true) :
    EncInv (clockNext p s) ∧ (clockNext p s).wire = s.wire ∧ pendingBytes (clockNext p s) = encodeFrame p.datagram := by
  rw [clockNext_of_not_rst s hrst, selectEnc_of_offer hfree hoffer]
  exact ⟨encInv_of_esc_false rfl, List.append_nil _, rfl⟩

/-- Settles O56: the step that accepts the datagram leaves its whole frame owed, and the run transfers what is owed. -/
theorem sequencerEmitsEncode : Obligations.SequencerEmitsEncode := by
  intro s p ps later hfree hin hp hoffer hps hle
  obtain ⟨hinv, hwire, howed⟩ := clockNext_of_offer (s := { s with inputs := ps.map .ports ++ later }) hfree hp hoffer
  obtain ⟨t, hrun, hwire', hrest⟩ := owed_run ps hinv (clockNext_inputs p _) hps (by rw [howed]) hle
  refine ⟨t, (run_succ_of_step (step_ports hin)).trans hrun, by rw [hwire', hwire], fun hlt => ?_⟩
  refine encBusy_of_pendingBytes_ne_nil (hrest.ne_nil ?_)
  simpa using hlt

/-! ## The content byte and the byte on `tx_data` -/

/-- At positions 1 to 12 the content byte is the one before the position (40_encoder.md R65). -/
theorem cur_of_pos {s : State} (h : s.encPos.val - 1 < 12) (hlo : 1 ≤ s.encPos.val) :
    cur s = some s.encBuf[s.encPos.val - 1] :=
  (cur_eq_some_iff s _).2 ⟨⟨hlo, by omega⟩, rfl⟩

theorem txData_of_no_cur {s : State} (hcur : cur s = none) : txData s = END := by
  simp [txData, hcur]

theorem txData_of_esc {s : State} {c : Byte} (hcur : cur s = some c) (hesc : s.encEsc = true) :
    txData s = escapeSecond c := by
  simp [txData, hcur, hesc]

theorem txData_of_needsEscape {s : State} {c : Byte} (hcur : cur s = some c) (hesc : s.encEsc = false)
    (hneed : c = END ∨ c = ESC) : txData s = ESC := by
  simp [txData, hcur, hesc, (needsEscape_iff c).2 hneed]

theorem txData_of_ordinary {s : State} {c : Byte} (hcur : cur s = some c) (hesc : s.encEsc = false)
    (hend : c ≠ END) (hnesc : c ≠ ESC) : txData s = c := by
  simp [txData, hcur, hesc, needsEscape, hend, hnesc]

theorem escapeSecond_of_eq_END {c : Byte} (h : c = END) : escapeSecond c = ESC_END := if_pos h

theorem escapeSecond_of_ne_END {c : Byte} (h : c ≠ END) : escapeSecond c = ESC_ESC := if_neg h

/-- Settles O22: by the content byte of the position, none at 0 and 13. -/
theorem txDataFollowsPositionAndEscape : Obligations.TxDataFollowsPositionAndEscape := by
  refine ⟨fun s hpos => txData_of_no_cur ((cur_eq_none_iff s).2 (.inl hpos)),
    fun s hpos => txData_of_no_cur ((cur_eq_none_iff s).2 (.inr hpos)), fun s h hlo => ?_⟩
  have hcur := cur_of_pos h hlo
  refine ⟨fun hesc hbyte => (txData_of_esc hcur hesc).trans (escapeSecond_of_eq_END hbyte),
    fun hesc hbyte => (txData_of_esc hcur hesc).trans (escapeSecond_of_ne_END ?_),
    txData_of_needsEscape hcur, txData_of_ordinary hcur⟩
  rw [hbyte]
  exact ESC_ne_END

/-! ## The sequencer's operations where they are taken -/

/-- An operation of the sequencer that is taken completes with its effect. -/
theorem exec_enc_of_taken {j : Instr} {s : State} (hsrc : sourceOf j = none) (hj : j ≠ .reset)
    (htaken : encTaken j s = true) : exec j s = .next (applyEnc (encEffect j s) s) := by
  rw [exec_enc j s hsrc hj, htaken]
  rfl

/-- The operation that the registers of a busy encoder select completes with its effect, and is the one selected
whenever the sink is ready. -/
theorem exec_and_select_of_selectEmit {s : State} {j : Instr} (hbusy : s.encBusy = true) (hsel : selectEmit s = j) :
    exec j s = .next (applyEnc (encEffect j s) s) ∧ ∀ p : Ports, p.txReady = true → selectEnc p s = j := by
  subst hsel
  obtain ⟨hsrc, hj, htaken⟩ := selectEmit_spec s hbusy
  exact ⟨exec_enc_of_taken hsrc hj htaken, fun p hsink => selectEnc_of_sink hbusy hsink⟩

theorem selectEmit_of_pos_first {s : State} (hpos : s.encPos = 0) : selectEmit s = .encOpen := by
  simp [selectEmit, (cur_eq_none_iff s).2 (.inl hpos), hpos]

theorem selectEmit_of_pos_last {s : State} (hpos : s.encPos = 13) : selectEmit s = .encClose := by
  simp [selectEmit, (cur_eq_none_iff s).2 (.inr hpos), hpos]

theorem selectEmit_of_esc {s : State} {c : Byte} (hcur : cur s = some c) (hesc : s.encEsc = true) :
    selectEmit s = .encEsc2 := by
  simp [selectEmit, hcur, hesc]

theorem selectEmit_of_needsEscape {s : State} {c : Byte} (hcur : cur s = some c) (hesc : s.encEsc = false)
    (hneed : c = END ∨ c = ESC) : selectEmit s = .encEsc1 := by
  simp [selectEmit, hcur, hesc, (needsEscape_iff c).2 hneed]

theorem selectEmit_of_ordinary {s : State} {c : Byte} (hcur : cur s = some c) (hesc : s.encEsc = false)
    (hend : c ≠ END) (hnesc : c ≠ ESC) : selectEmit s = .encLit := by
  simp [selectEmit, hcur, hesc, needsEscape, hend, hnesc]

/-- The position after a step that advances it. -/
theorem advancePos_encPos {s : State} (h : s.encPos.val + 1 < 14) :
    (advancePos s).encPos = ⟨s.encPos.val + 1, h⟩ := by
  rw [advancePos_of_lt s (by omega)]

/-- Settles O23: the guard of `ENC.LOAD` is a free encoder. -/
theorem loadTakesTheWholeDatagram : Obligations.LoadTakesTheWholeDatagram := by
  refine ⟨fun s d hfree => ?_, fun p s hfree hoffer => selectEnc_of_offer hfree hoffer, fun p s d hbusy hsel => ?_⟩
  · rw [exec_enc_of_taken (j := .encLoad d) rfl nofun (by simp [encTaken, hfree])]
    simp [applyEnc, encEffect, encOutFree, Datagram.content]
  · obtain ⟨-, -, htaken⟩ := selectEnc_spec p s
    simp [hsel, encTaken, hbusy] at htaken

/-- Settles O24: at position 0 there is no content byte, so the byte on `tx_data` is `END`. -/
theorem openTransfersTheOpeningDelimiter : Obligations.OpenTransfersTheOpeningDelimiter := by
  refine ⟨fun s hbusy hpos => ?_, fun p s hbusy hpos => ?_⟩
  · have hbyte := txData_of_no_cur ((cur_eq_none_iff s).2 (.inl hpos))
    rw [(exec_and_select_of_selectEmit hbusy (selectEmit_of_pos_first hpos)).1]
    simp [applyEnc, encEffect, sending, hbyte]
  · exact (exec_and_select_of_selectEmit hbusy (selectEmit_of_pos_first hpos)).2 p

/-- Settles O25: an ordinary content byte stands on `tx_data` itself. -/
theorem litTransfersTheContentByte : Obligations.LitTransfersTheContentByte := by
  intro s h h' hlo hbusy hesc hend hnesc
  have hcur := cur_of_pos h hlo
  obtain ⟨hexec, hsel⟩ := exec_and_select_of_selectEmit hbusy (selectEmit_of_ordinary hcur hesc hend hnesc)
  refine ⟨?_, hsel⟩
  rw [hexec]
  simp [applyEnc, encEffect, sending, txData_of_ordinary hcur hesc hend hnesc, advancePos_encPos h']

/-- Settles O26: with no escape half sent, `ESC` stands on `tx_data` for a byte that needs one. -/
theorem escOneTransfersTheIntroducer : Obligations.EscOneTransfersTheIntroducer := by
  intro s h hlo hbusy hesc hneed
  have hcur := cur_of_pos h hlo
  obtain ⟨hexec, hsel⟩ := exec_and_select_of_selectEmit hbusy (selectEmit_of_needsEscape hcur hesc hneed)
  refine ⟨?_, hsel⟩
  rw [hexec]
  simp [applyEnc, encEffect, sending, txData_of_needsEscape hcur hesc hneed]

/-- Settles O27: with the escape half sent, the second byte of the pair stands on `tx_data`. -/
theorem escTwoTransfersTheSecondByte : Obligations.EscTwoTransfersTheSecondByte := by
  intro s h h' hlo hbusy hesc
  have hcur := cur_of_pos h hlo
  obtain ⟨hexec, hsel⟩ := exec_and_select_of_selectEmit hbusy (selectEmit_of_esc hcur hesc)
  have hexec' (b : Byte) (hbyte : escapeSecond s.encBuf[s.encPos.val - 1] = b) :
      exec .encEsc2 s = .next { s with
        encEsc := false, encPos := ⟨s.encPos.val + 1, h'⟩, encOut := encOutBusy b, wire := s.wire ++ [b] } := by
    rw [hexec]
    simp [applyEnc, encEffect, sending, txData_of_esc hcur hesc, hbyte, advancePos_encPos h']
  exact ⟨fun hend => hexec' _ (escapeSecond_of_eq_END hend), fun hend => hexec' _ (escapeSecond_of_ne_END hend), hsel⟩

/-- Settles O28: at position 13 there is no content byte; the encoder it leaves is free, whatever the state before. -/
theorem closeTransfersTheClosingDelimiter : Obligations.CloseTransfersTheClosingDelimiter := by
  refine ⟨fun s hbusy hpos => ?_, fun p s hbusy hpos => ?_, fun p s t hexec => ?_⟩
  · have hbyte := txData_of_no_cur ((cur_eq_none_iff s).2 (.inr hpos))
    rw [(exec_and_select_of_selectEmit hbusy (selectEmit_of_pos_last hpos)).1]
    simp [applyEnc, encEffect, sending, hbyte]
  · exact (exec_and_select_of_selectEmit hbusy (selectEmit_of_pos_last hpos)).2 p
  · rw [exec_enc .encClose s rfl nofun, guarded_eq_next] at hexec
    obtain ⟨-, rfl⟩ := hexec
    rfl

/-- Settles O29: the guard of `ENC.STALL` is a busy encoder. -/
theorem stallHoldsTheByte : Obligations.StallHoldsTheByte := by
  refine ⟨fun s hbusy => ?_, fun p s hbusy hsink => selectEnc_of_no_sink hbusy hsink⟩
  rw [exec_enc_of_taken (j := .encStall) rfl nofun hbusy]
  simp [applyEnc, encEffect, sending, encOutBusy]

/-- Settles O30: the guard of `ENC.WAIT` is a free encoder. -/
theorem waitChangesNoEncoderRegister : Obligations.WaitChangesNoEncoderRegister := by
  refine ⟨fun s hfree => ?_, fun p s hfree hoffer => selectEnc_of_no_offer hfree hoffer⟩
  rw [exec_enc_of_taken (j := .encWait) rfl nofun (by simp [encTaken, hfree])]
  simp [applyEnc, encEffect, sending, encOutFree]

end Sys2Proof.Machine
end

section
namespace Sys2Proof.Machine

open Config

/-! ## The decoder's operations where they are taken -/

/-- A well-formed operation completes with its effect in the decoder state its row states. -/
theorem exec_dec_of_row {i : Instr} {s : State} {st : DecState} (hstate : s.decState = st)
    (hsrc : sourceOf i = some (.rx st)) (hwf : i.wf = true) :
    exec i s = .next (applyDec (decEffect i (decRegs s)) s) := by
  have htaken : decTaken i s.decState = true := by simp [decTaken, hstate, hsrc, hwf]
  rw [exec_dec i s ⟨st, hsrc⟩, htaken]
  rfl

theorem bne_and_bne_of_ne {b x y : Byte} (hx : b ≠ x) (hy : b ≠ y) : (b != x && b != y) = true := by
  simp [hx, hy]

/-- The byte presented selects by the row of the decoder's state. -/
theorem selectDec_of_row {p : Ports} {s : State} {st : DecState} {i : Instr} (hvalid : p.rxValid = true)
    (hstate : s.decState = st) (hrow : decodeRx st p.rxData = i) : selectDec p s = i := by
  rw [selectDec_of_byte hvalid, hstate, hrow]

/-- A storing operation below 12 (41_decoder.md R79). -/
theorem applyDec_decStore_of_lt (v : Byte) (s : State) (h : s.decCount.val < 12) :
    applyDec (decStore (decRegs s) v, none) s = { s with
      decState := .inFrame, decBuf := s.decBuf.set s.decCount.val v h
      decCount := ⟨s.decCount.val + 1, Nat.succ_lt_succ h⟩, decOut := decOutOf none } := by
  simp [applyDec, decStore, decRegs, h]

/-- A storing operation at 12 drops its byte (41_decoder.md R79). -/
theorem applyDec_decStore_of_full (v : Byte) (s : State) (h : s.decCount = 12) :
    applyDec (decStore (decRegs s) v, none) s = { s with decState := .inFrame, decOut := decOutOf none } := by
  simp [applyDec, decStore, decRegs, h]

/-- `DEC.IDLE.END` is selected by the one byte of its word in the one state of its row. -/
theorem selectDec_eq_decIdleEnd_iff (p : Ports) (s : State) :
    selectDec p s = .decIdleEnd ↔ p.rxValid = true ∧ s.decState = .idle ∧ p.rxData = END := by
  refine ⟨fun hsel => ?_, fun ⟨hvalid, hstate, hdata⟩ => selectDec_of_row hvalid hstate (if_pos hdata)⟩
  cases hvalid : p.rxValid with
  | false =>
    rw [selectDec_of_no_byte hvalid] at hsel
    cases hsel
  | true =>
    rw [selectDec_of_byte hvalid] at hsel
    have hsrc := (decodeRx_spec s.decState p.rxData).1
    have hword := encode_decodeRx s.decState p.rxData
    rw [hsel] at hsrc hword
    exact ⟨rfl, (Source.rx.inj (Option.some.inj hsrc)).symm, (List.singleton_inj.1 hword).symm⟩

/-- Settles O10. -/
theorem endInIdleOpensAFrame : Obligations.EndInIdleOpensAFrame := by
  refine ⟨fun s hstate => ?_, selectDec_eq_decIdleEnd_iff⟩
  rw [exec_dec_of_row (i := .decIdleEnd) hstate rfl rfl]
  simp [applyDec, decEffect, decRegs]

/-- Settles O11: the effect of a dropped byte is on the ports only. -/
theorem otherByteInIdleIsDropped : Obligations.OtherByteInIdleIsDropped := by
  refine ⟨fun s b hstate hend => ?_, fun p s hvalid hstate hend => selectDec_of_row hvalid hstate (if_neg hend)⟩
  rw [exec_dec_of_row (i := .decIdleSkip b) hstate rfl (bne_iff_ne.2 hend)]
  simp [applyDec, decEffect, decRegs]

/-- Settles O12: the datagram delivered is the one in the buffer, `Datagram.ofContent`. -/
theorem endInFrameDeliversOrRaisesShortFrame : Obligations.EndInFrameDeliversOrRaisesShortFrame := by
  have hexec (s : State) (hstate : s.decState = .inFrame) :
      exec .decInframeEnd s = .next (applyDec (decEffect .decInframeEnd (decRegs s)) s) :=
    exec_dec_of_row hstate rfl rfl
  refine ⟨fun s hstate hfull => ⟨Datagram.ofContent s.decBuf, rfl, rfl, ?_⟩, fun s hstate hshort => ?_,
    fun p s hvalid hstate hdata => selectDec_of_row hvalid hstate (if_pos hdata)⟩
  · rw [hexec s hstate]
    simp [applyDec, decEffect, decRegs, hfull]
  · rw [hexec s hstate]
    simp [applyDec, decEffect, decRegs, hshort]

/-- Settles O13. -/
theorem escInFrameStartsAnEscape : Obligations.EscInFrameStartsAnEscape := by
  refine ⟨fun s hstate => ?_, fun p s hvalid hstate hdata => selectDec_of_row hvalid hstate ?_⟩
  · rw [exec_dec_of_row (i := .decInframeEsc) hstate rfl rfl]
    simp [applyDec, decEffect, decRegs]
  · rw [hdata]
    rfl

/-- Settles O14: the byte is stored by the storing row of R89, which leaves the decoder where it was, in `InFrame`. -/
theorem dataByteIsAppendedOrDropped : Obligations.DataByteIsAppendedOrDropped := by
  have hexec (s : State) (b : Byte) (hstate : s.decState = .inFrame) (hend : b ≠ 0xC0) (hesc : b ≠ 0xDB) :
      exec (.decInframeData b) s = .next (applyDec (decStore (decRegs s) b, none) s) :=
    exec_dec_of_row hstate rfl (bne_and_bne_of_ne hend hesc)
  refine ⟨fun s b h hstate hend hesc => ?_, fun s b hfull hstate hend hesc => ?_,
    fun p s hvalid hstate hend hesc => selectDec_of_row hvalid hstate ((if_neg hend).trans (if_neg hesc))⟩
  · rw [hexec s b hstate hend hesc, applyDec_decStore_of_lt b s h, ← hstate]
  · rw [hexec s b hstate hend hesc, applyDec_decStore_of_full b s hfull, ← hstate]

/-- Settles O15: the byte stored is `END`. -/
theorem escapedEndAppendsTheDelimiterValue : Obligations.EscapedEndAppendsTheDelimiterValue := by
  have hexec (s : State) (hstate : s.decState = .escaping) :
      exec .decEscEnd s = .next (applyDec (decStore (decRegs s) END, none) s) :=
    exec_dec_of_row hstate rfl rfl
  exact ⟨fun s h hstate => (hexec s hstate).trans (congrArg _ (applyDec_decStore_of_lt END s h)),
    fun s hfull hstate => (hexec s hstate).trans (congrArg _ (applyDec_decStore_of_full END s hfull)),
    fun p s hvalid hstate hdata => selectDec_of_row hvalid hstate (if_pos hdata)⟩

/-- Settles O16: the byte stored is `ESC`. -/
theorem escapedEscAppendsTheEscapeValue : Obligations.EscapedEscAppendsTheEscapeValue := by
  have hexec (s : State) (hstate : s.decState = .escaping) :
      exec .decEscEsc s = .next (applyDec (decStore (decRegs s) ESC, none) s) :=
    exec_dec_of_row hstate rfl rfl
  refine ⟨fun s h hstate => (hexec s hstate).trans (congrArg _ (applyDec_decStore_of_lt ESC s h)),
    fun s hfull hstate => (hexec s hstate).trans (congrArg _ (applyDec_decStore_of_full ESC s hfull)),
    fun p s hvalid hstate hdata => selectDec_of_row hvalid hstate ?_⟩
  rw [hdata]
  rfl

/-- Settles O18: `DEC.NOP` is taken in every state. -/
theorem noByteChangesNoDecoderRegister : Obligations.NoByteChangesNoDecoderRegister := by
  refine ⟨fun s => ?_, fun p s => selectDec_of_no_byte⟩
  rw [exec_dec .decNop s ⟨.idle, rfl⟩]
  simp [decTaken, guarded, applyDec, decEffect, decRegs]

/-! ## Events -/

/-- An effect of the decoder that raises an event is that of `DEC.INFRAME.END` or `DEC.ESC.BAD`, and leaves the decoder
in `Idle` with count 0 (41_decoder.md R90). -/
theorem decEffect_event {i : Instr} {r : DecRegs} {e : Event} (h : (decEffect i r).2 = some e) :
    (i = .decInframeEnd ∨ ∃ b, i = .decEscBad b) ∧ (decEffect i r).1 = { r with state := .idle, count := 0 } := by
  cases i with
  | decInframeEnd => exact ⟨.inl rfl, rfl⟩
  | decEscBad b => exact ⟨.inr ⟨b, rfl⟩, rfl⟩
  | _ => cases h

/-- Settles O21: only an effect of the decoder writes the history, and it does so only with an event. -/
theorem onlyTwoOperationsRaiseEvents : Obligations.OnlyTwoOperationsRaiseEvents := by
  intro i s t h hevents
  rcases exec_cases h with ⟨-, -, rfl⟩ | ⟨-, -, rfl⟩ | ⟨bs, rfl⟩ | ⟨-, rfl⟩
  · cases he : (decEffect i (decRegs s)).2 with
    | none => simp [he] at hevents
    | some e =>
      obtain ⟨hi, hregs⟩ := decEffect_event he
      exact ⟨hi, by simp [hregs], by simp [hregs], e, by simp [he], by simp [he]⟩
  · exact absurd rfl hevents
  · exact absurd rfl hevents
  · exact absurd rfl hevents

/-! ## One byte -/

/-- Settles O43: the operation a byte selects has the effect of `dec_step`, and the encoder's half is apart. -/
theorem byteStepIsDecStep : Obligations.ByteStepIsDecStep := by
  intro s p rest hin hrst hvalid
  have heff : decEffect (selectDec p { s with inputs := rest }) (decRegs s) = decStep (decRegs s) p.rxData := by
    rw [selectDec_of_byte hvalid]
    exact decEffect_decodeRx (decRegs s) p.rxData
  refine ⟨_, step_ports hin, ?_⟩
  rw [clockNext_of_not_rst _ hrst, ← heff]
  exact ⟨rfl, rfl, rfl⟩

theorem decStep_of_idle_skip {r : DecRegs} (h : r.state = .idle) {b : Byte} (hend : b ≠ END) :
    decStep r b = (r, none) := by
  simp [decStep, h, hend]

theorem decStep_of_escaping_bad {r : DecRegs} (h : r.state = .escaping) {b : Byte} (hend : b ≠ ESC_END)
    (hesc : b ≠ ESC_ESC) : decStep r b = ({ r with state := .idle, count := 0 }, some (.error .badEscape)) := by
  simp [decStep, h, hend, hesc]

/-! ## Bytes outside every frame -/

/-- Settles O45. -/
theorem deframeOfConcatenation : Obligations.DeframeOfConcatenation := deframe_append

/-- `Idle` absorbs every sequence without `END` (41_decoder.md R94). -/
theorem deframe_of_idle {r : DecRegs} (h : r.state = .idle) {g : List Byte} (hg : END ∉ g) :
    deframe r g = (r, []) := by
  induction g with
  | nil => rfl
  | cons b g ih =>
    obtain ⟨hb, hg'⟩ := not_or.1 (mt List.mem_cons.2 hg)
    simp [deframe, decStep_of_idle_skip h (Ne.symm hb), ih hg']

/-- Settles O46. -/
theorem idleAbsorbsNonDelimiters : Obligations.IdleAbsorbsNonDelimiters := fun _ _ h hg => deframe_of_idle h hg

/-- The first `END` in `Idle` opens a frame, whatever was dropped before it. -/
theorem deframe_of_idle_append_END {r : DecRegs} (h : r.state = .idle) {g : List Byte} (hg : END ∉ g) :
    deframe r (g ++ [END]) = ({ r with state := .inFrame, count := 0 }, []) := by
  simp [deframe_append, deframe_of_idle h hg, deframe, decStep_of_idle_END h]

/-- A byte that ends the open frame with an event: what follows it is dropped up to the next `END`, which opens a frame
(41_decoder.md R87, R95). -/
theorem deframe_of_event {r : DecRegs} {x : Byte} {e : Event} {g : List Byte}
    (hx : decStep r x = ({ r with state := .idle, count := 0 }, some e)) (hg : END ∉ g) :
    deframe r (x :: g) = ({ r with state := .idle, count := 0 }, [e]) ∧
    deframe r (x :: g ++ [END]) = ({ r with state := .inFrame, count := 0 }, [e]) := by
  constructor
  · simp [deframe, hx, deframe_of_idle, hg]
  · simp [deframe, hx, deframe_of_idle_append_END, hg]

/-- Settles O17: the operation and the stream read the same row of R89. -/
theorem otherByteAfterEscRaisesBadEscape : Obligations.OtherByteAfterEscRaisesBadEscape := by
  refine ⟨fun s b hstate hend hesc => ?_, fun p s hvalid hstate hend hesc =>
    selectDec_of_row hvalid hstate ((if_neg hend).trans (if_neg hesc)),
    fun r x g hstate hend hesc hg => deframe_of_event (decStep_of_escaping_bad hstate hend hesc) hg⟩
  rw [exec_dec_of_row (i := .decEscBad b) hstate rfl (bne_and_bne_of_ne hend hesc)]
  simp [applyDec, decEffect, decRegs]

/-! ## Frames -/

/-- From `Idle`, a frame up to its closing `END` raises nothing. -/
theorem deframe_encodeFrame_dropLast {r : DecRegs} (h : r.state = .idle) (d : Datagram) :
    (deframe r (encodeFrame d).dropLast).2 = [] := by
  have hopened : (encodeFrame d).dropLast = END :: stuffAll d.content.toList := by
    rw [encodeFrame, encodeContent, List.dropLast_concat, List.singleton_append]
  simp [hopened, deframe, decStep_of_idle_END h, deframe_stuffAll]

/-- From `Idle`, the frame of a datagram delivers it, and the buffer holds its content (41_decoder.md R92). -/
theorem deframe_encodeFrame {r : DecRegs} (h : r.state = .idle) (d : Datagram) :
    deframe r (encodeFrame d) = ({ state := .idle, count := 0, buf := d.content }, [.datagram d]) := by
  have hbuf : (d.content.toList.foldl decStore { r with state := .inFrame, count := 0 }).buf = d.content := by
    obtain ⟨-, hlist⟩ :=
      foldl_decStore_of_count_zero d.content.toList (r := { r with state := .inFrame, count := 0 }) rfl rfl
    rw [← Vector.toList_inj, hlist]
    simp [List.take_of_length_le, List.drop_of_length_le]
  have hevent : frameEvent d.content.toList = .datagram d := by rw [frameEvent, ofBytes_content]; rfl
  rw [encodeFrame, encodeContent, deframe_frame _ h, hbuf, hevent]

/-- Settles O47. -/
theorem encodedDatagramIsDelivered : Obligations.EncodedDatagramIsDelivered :=
  fun d _ => ⟨deframe_encodeFrame rfl d, deframe_encodeFrame_dropLast rfl d⟩

/-- From `Idle`, frames each followed by filler without `END` are delivered in order (41_decoder.md R93). -/
theorem deframe_frames_with_filler (l : List (Datagram × List Byte)) {r : DecRegs} (h : r.state = .idle)
    (hl : ∀ x ∈ l, END ∉ x.2) :
    (deframe r (l.flatMap fun x => encodeFrame x.1 ++ x.2)).1.state = .idle ∧
    (deframe r (l.flatMap fun x => encodeFrame x.1 ++ x.2)).2 = l.map fun x => .datagram x.1 := by
  induction l generalizing r with
  | nil => exact ⟨h, rfl⟩
  | cons x l ih =>
    obtain ⟨hx, hl'⟩ := List.forall_mem_cons.1 hl
    have hfirst : deframe r (encodeFrame x.1 ++ x.2) =
        ({ state := .idle, count := 0, buf := x.1.content }, [.datagram x.1]) := by
      rw [deframe_append, deframe_encodeFrame h, deframe_of_idle rfl hx]
      rfl
    obtain ⟨hstate, hevents⟩ := ih (r := { state := .idle, count := 0, buf := x.1.content }) rfl hl'
    rw [List.flatMap_cons, deframe_append, hfirst]
    exact ⟨hstate, by rw [hevents]; rfl⟩

/-- Settles O48: the filler in front is absorbed. -/
theorem frameSequenceIsDeliveredInOrder : Obligations.FrameSequenceIsDeliveredInOrder := by
  intro l g buf hg hl
  rw [deframe_append, deframe_of_idle rfl hg]
  exact deframe_frames_with_filler l rfl hl

/-! ## Frames out of phase -/

/-- Where the opening `END` of a frame ends another frame with an event, the frame's content is dropped in `Idle` and
its closing `END` opens a frame (41_decoder.md R95). -/
theorem deframe_encodeFrame_of_event {r : DecRegs} {e : Event}
    (hend : decStep r END = ({ r with state := .idle, count := 0 }, some e)) (d : Datagram) :
    deframe r (encodeFrame d) = ({ r with state := .inFrame, count := 0 }, [e]) :=
  (deframe_of_event hend (END_notMem_stuffAll d.content.toList)).2

/-- In a frame, the event of a further frame is that of the bytes stored before it. -/
theorem deframe_encodeFrame_of_inFrame {r : DecRegs} (h : r.state = .inFrame) (d : Datagram) :
    deframe r (encodeFrame d) = ({ r with count := 0 },
      [if r.count = 12 then .datagram (Datagram.ofContent r.buf) else .error .shortFrame]) := by
  rw [deframe_encodeFrame_of_event (decStep_of_inFrame_END h), ← h]

/-- From `InFrame(0)` every frame is lost with one `ShortFrame` (70_reset_and_hazards.md R121). -/
theorem deframe_frames_of_inFrame_zero {r : DecRegs} (h : r.state = .inFrame) (hcount : r.count = 0)
    (ds : List Datagram) :
    deframe r (ds.flatMap encodeFrame) = (r, List.replicate ds.length (.error .shortFrame)) := by
  induction ds with
  | nil => rfl
  | cons d ds ih =>
    have hfirst : deframe r (encodeFrame d) = (r, [.error .shortFrame]) := by
      rw [deframe_encodeFrame_of_inFrame h, if_neg (by rw [hcount]; decide), ← hcount]
    rw [List.flatMap_cons, deframe_append, hfirst, ih]
    rfl

/-- Settles O49: in every state but `Idle` an `END` ends the open frame with an event. -/
theorem outOfPhaseEveryFrameIsLost : Obligations.OutOfPhaseEveryFrameIsLost := by
  refine ⟨fun r d h hshort => ?_, fun r d h hfull => ?_, fun r d h => ?_, fun r ds h hcount =>
    deframe_frames_of_inFrame_zero h hcount ds⟩
  · rw [deframe_encodeFrame_of_inFrame h, if_neg hshort]
  · rw [deframe_encodeFrame_of_inFrame h, if_pos hfull]
  · exact deframe_encodeFrame_of_event (decStep_of_escaping_bad h END_ne_ESC_END END_ne_ESC_ESC) d

end Sys2Proof.Machine
end

section
namespace Sys2Proof.Machine

/-! ## The datagrams the framer carries -/

/-! ### Indicators -/

/-- No indicator is `END` or `ESC` (42_datagram_fields.md R101). -/
theorem not_needsEscape_indicatorCode (k : Indicator) : needsEscape (indicatorCode k) = false := by
  cases k <;> rfl

theorem indicatorIsControl_iff (k : Indicator) :
    indicatorIsControl k = true ↔ k = .heartbeat ∨ k = .ctlerr ∨ k = .ctlreq := by
  cases k <;> simp [indicatorIsControl]

/-- Settles O58: a byte is stuffed only where it needs an escape, and no indicator does. -/
theorem indicatorsAreNeverStuffed : Obligations.IndicatorsAreNeverStuffed := by
  refine ⟨fun k => ?_, rfl, rfl, rfl, rfl, rfl, rfl, rfl, rfl, rfl, indicatorIsControl_iff⟩
  rw [stuff_eq, not_needsEscape_indicatorCode]
  rfl

/-- The values of the indicators are pairwise different, so the search finds the one whose value stands in the header. -/
theorem indicatorOf_of_code {d : Datagram} {k : Indicator} (h : d.header[0] = indicatorCode k) :
    indicatorOf d = some k := by
  unfold indicatorOf
  rw [h]
  cases k <;> rfl

theorem layoutHeader_first (l : HeaderLayout) : (layoutHeader l)[0] = indicatorCode (layoutIndicator l) := by
  cases l <;> rfl

/-! ### Numbers of several bytes, high byte first -/

/-- A field of a word is the word divided by the field's weight, cut to the field's width. -/
theorem extractLsb'_eq_ofNat_div {w : Nat} (x : BitVec w) (start len : Nat) :
    x.extractLsb' start len = BitVec.ofNat len (x.toNat / 2 ^ start) :=
  congrArg (BitVec.ofNat len) (Nat.shiftRight_eq_div_pow x.toNat start)

/-- The three bytes of a sequence number, joined high byte first. -/
theorem append_bytes_of_seq (seq : BitVec 24) :
    seq.extractLsb' 16 8 ++ seq.extractLsb' 8 8 ++ seq.extractLsb' 0 8 = seq := by
  have hhigh : seq.extractLsb' 16 8 ++ seq.extractLsb' 8 8 = seq.extractLsb' 8 16 :=
    BitVec.extractLsb'_append_extractLsb'_eq_extractLsb' rfl
  rw [hhigh]
  exact BitVec.extractLsb'_append_extractLsb'

/-- The header of both layouts that carry a sequence number, its bytes by division (42_datagram_fields.md R102). -/
theorem seqHeader_eq (code : Byte) (seq : BitVec 24) :
    (#v[code, seq.extractLsb' 16 8, seq.extractLsb' 8 8, seq.extractLsb' 0 8] : Header) =
    #v[code, BitVec.ofNat 8 (seq.toNat / 65536), BitVec.ofNat 8 (seq.toNat / 256), BitVec.ofNat 8 seq.toNat] := by
  simp [extractLsb'_eq_ofNat_div]

theorem imagePayload_eq (m : ImageSize) : imagePayload m =
    #v[0, 0, 0, BitVec.ofNat 8 (m.width.toNat / 256), BitVec.ofNat 8 m.width.toNat,
       BitVec.ofNat 8 (m.height.toNat / 256), BitVec.ofNat 8 m.height.toNat, m.encoding] := by
  simp [imagePayload, extractLsb'_eq_ofNat_div]

/-! ### Reading back -/

/-- A layout is read back: the first byte tells the layouts apart, the others hold the fields
(42_datagram_fields.md R102). -/
theorem headerLayout_layoutHeader (l : HeaderLayout) : headerLayout (layoutHeader l) = some l := by
  cases l with
  | channel firstIdx => rfl
  | command bytesRemaining totalLen => rfl
  | imageHead => rfl
  | binaryHead => rfl
  | image seq => simp [headerLayout, layoutHeader, append_bytes_of_seq]
  | binary seq => simp [headerLayout, layoutHeader, append_bytes_of_seq]

/-- An `IMAGEHEAD` payload is read back: its width and its height from two bytes each (42_datagram_fields.md R103). -/
theorem imageSize_imagePayload (m : ImageSize) : imageSize (imagePayload m) = m := by
  have hbytes (x : BitVec 16) : x.extractLsb' 8 8 ++ x.extractLsb' 0 8 = x :=
    BitVec.extractLsb'_append_extractLsb'
  simp [imageSize, imagePayload, hbytes]

/-- Settles O59: the bytes by division, then each layout read back from its own bytes. -/
theorem layoutsAreReadBack : Obligations.LayoutsAreReadBack :=
  ⟨fun _ => rfl, fun _ _ => rfl, rfl, rfl, seqHeader_eq 13, seqHeader_eq 21, imagePayload_eq,
    headerLayout_layoutHeader, fun l _ => indicatorOf_of_code (layoutHeader_first l), imageSize_imagePayload⟩

end Sys2Proof.Machine
end

section
namespace Sys2Proof.Machine

open Config

/-! ## Reset -/

/-- Settles O32: the second part is the reset half of the clock step. -/
theorem resetClearsTheControlRegisters : Obligations.ResetClearsTheControlRegisters := by
  refine ⟨exec_reset, fun s p rest hin hrst => ?_⟩
  rw [step_ports hin, clockNext_of_rst _ hrst, exec_reset]

/-! ## Loss of phase -/

/-- Settles O50: after the bad escape the rest of its frame is dropped in `Idle`, its `END` opens a frame, and from
there every frame is lost. -/
theorem badEscapeInMidFrameLosesAllThatFollows : Obligations.BadEscapeInMidFrameLosesAllThatFollows := by
  intro r x g ds hstate hend hesc hg
  have hopened : deframe r (x :: g ++ [END]) = ({ r with state := .inFrame, count := 0 }, [.error .badEscape]) :=
    (deframe_of_event (decStep_of_escaping_bad hstate hend hesc) hg).2
  rw [deframe_append, hopened, deframe_frames_of_inFrame_zero rfl rfl]
  rfl

/-- Settles O51: the extra `END` closes the open frame, so the opening `END` of the next frame is read in `Idle`. -/
theorem oneExtraEndRestoresPhase : Obligations.OneExtraEndRestoresPhase := by
  intro r d hstate
  have hclosed := (deframe_of_event (decStep_of_inFrame_END hstate) (List.not_mem_nil (a := END))).1
  refine ⟨_, fun hshort => if_neg hshort, fun hfull => if_pos hfull, hclosed, ?_⟩
  rw [← List.singleton_append, deframe_append, hclosed, deframe_encodeFrame rfl]
  rfl

/-! ### One delimiter between neighbours -/

theorem sharedDelimiterStream_singleton (d : Datagram) : sharedDelimiterStream [d] = encodeFrame d := by
  simp [sharedDelimiterStream, encodeFrame, encodeContent]

/-- The second frame's opening delimiter is the first one's closing one, and its own closing delimiter is the opening
one of what follows. -/
theorem sharedDelimiterStream_cons_cons (d lost : Datagram) (ds : List Datagram) :
    sharedDelimiterStream (d :: lost :: ds) =
      encodeFrame d ++ (stuffAll lost.content.toList ++ sharedDelimiterStream ds) := by
  simp [sharedDelimiterStream, encodeFrame, encodeContent]

/-- From `Idle`, of two neighbours the first is delivered and the second dropped, and the decoder reads on from `Idle`
(70_reset_and_hazards.md R124). -/
theorem deframe_sharedDelimiterStream_cons_cons {r : DecRegs} (h : r.state = .idle) (d lost : Datagram)
    (ds : List Datagram) :
    deframe r (sharedDelimiterStream (d :: lost :: ds)) =
      ((deframe { state := .idle, count := 0, buf := d.content } (sharedDelimiterStream ds)).1,
       .datagram d :: (deframe { state := .idle, count := 0, buf := d.content } (sharedDelimiterStream ds)).2) := by
  have hlost := END_notMem_stuffAll lost.content.toList
  rw [sharedDelimiterStream_cons_cons, deframe_append, deframe_encodeFrame h, deframe_append, deframe_of_idle rfl hlost]
  rfl

/-- Settles O53: by induction two datagrams at a time. -/
theorem sharedDelimiterLosesEverySecondFrame : Obligations.SharedDelimiterLosesEverySecondFrame := by
  intro ds
  induction ds using oddPlaces.induct with
  | case1 => exact fun buf => ⟨rfl, rfl, rfl⟩
  | case2 d =>
    intro buf
    rw [sharedDelimiterStream_singleton, deframe_encodeFrame rfl]
    exact ⟨rfl, rfl, rfl⟩
  | case3 d lost ds ih =>
    intro buf
    obtain ⟨hevents, hstate, hcount⟩ := ih d.content
    have hparity : (d :: lost :: ds).length % 2 = ds.length % 2 := Nat.add_mod_right ds.length 2
    rw [deframe_sharedDelimiterStream_cons_cons rfl, hparity]
    exact ⟨congrArg (.datagram d :: ·) hevents, hstate, hcount⟩

/-! ## The spacing of events -/

/-- Everything a byte can do to the decoder (41_decoder.md R89): open a frame or be dropped in `Idle`, start an escape,
store a byte, or end the frame with an event. -/
theorem decStep_cases (r : DecRegs) (b : Byte) :
    (r.state = .idle ∧ decStep r b = (r, none)) ∨
    (r.state = .idle ∧ decStep r b = ({ r with state := .inFrame, count := 0 }, none)) ∨
    (r.state = .inFrame ∧ decStep r b = ({ r with state := .escaping }, none)) ∨
    (r.state ≠ .idle ∧ ∃ v, decStep r b = (decStore r v, none)) ∨
    (r.state ≠ .idle ∧ ∃ e, decStep r b = ({ r with state := .idle, count := 0 }, some e) ∧
      ∀ d, e = .datagram d → r.state = .inFrame ∧ r.count = 12) := by
  cases hstate : r.state with
  | idle =>
    by_cases hend : b = END
    · simp [hend, decStep_of_idle_END hstate]
    · simp [decStep_of_idle_skip hstate hend]
  | inFrame =>
    by_cases hend : b = END
    · refine .inr (.inr (.inr (.inr ⟨by simp, _, hend ▸ decStep_of_inFrame_END hstate, fun d hd => ⟨rfl, ?_⟩⟩)))
      by_contra hshort
      rw [if_neg hshort] at hd
      cases hd
    · by_cases hesc : b = ESC
      · simp [decStep, hstate, hesc]
      · exact .inr (.inr (.inr (.inl ⟨by simp, b, by simp [decStep, hstate, hend, hesc]⟩)))
  | escaping =>
    by_cases hend : b = ESC_END
    · exact .inr (.inr (.inr (.inl ⟨by simp, END, by simp [decStep, hstate, hend]⟩)))
    · by_cases hesc : b = ESC_ESC
      · exact .inr (.inr (.inr (.inl ⟨by simp, ESC, by simp [decStep, hstate, hesc]⟩)))
      · simp [decStep_of_escaping_bad hstate hend hesc]

/-- How many more bytes the decoder needs at least before it delivers a datagram: an opening `END` where no frame is
open, a byte for each content byte still to be stored, and the closing `END`. -/
def bytesToDatagram (r : DecRegs) : Nat :=
  match r.state with
  | .idle => 14
  | _ => 13 - r.count.val

theorem bytesToDatagram_of_idle {r : DecRegs} (h : r.state = .idle) : bytesToDatagram r = 14 := by
  simp [bytesToDatagram, h]

theorem bytesToDatagram_of_ne_idle {r : DecRegs} (h : r.state ≠ .idle) : bytesToDatagram r = 13 - r.count.val := by
  unfold bytesToDatagram
  split
  · exact absurd ‹_› h
  · rfl

theorem decStore_count_le (r : DecRegs) (v : Byte) : (decStore r v).count.val ≤ r.count.val + 1 := by
  unfold decStore
  split
  · exact le_rfl
  · exact Nat.le_succ _

/-- A byte brings the next datagram closer by one byte at most. -/
theorem bytesToDatagram_le_decStep (r : DecRegs) (b : Byte) :
    bytesToDatagram r ≤ bytesToDatagram (decStep r b).1 + 1 := by
  rcases decStep_cases r b with ⟨-, h⟩ | ⟨hstate, h⟩ | ⟨hstate, h⟩ | ⟨hstate, v, h⟩ | ⟨hstate, e, h, -⟩ <;> rw [h]
  · exact Nat.le_succ _
  · rw [bytesToDatagram_of_idle hstate]
    rfl
  · rw [bytesToDatagram_of_ne_idle (by simp [hstate])]
    exact Nat.le_succ _
  · rw [bytesToDatagram_of_ne_idle hstate, bytesToDatagram_of_ne_idle (by simp)]
    have hcount := decStore_count_le r v
    dsimp only
    omega
  · rw [bytesToDatagram_of_ne_idle hstate, bytesToDatagram_of_idle rfl]
    omega

/-- A datagram is delivered only where one byte was missing. -/
theorem bytesToDatagram_of_datagram {r : DecRegs} {b : Byte} {d : Datagram} (h : (decStep r b).2 = some (.datagram d)) :
    bytesToDatagram r = 1 := by
  rcases decStep_cases r b with ⟨-, hr⟩ | ⟨-, hr⟩ | ⟨-, hr⟩ | ⟨-, v, hr⟩ | ⟨hstate, e, hr, hfull⟩ <;> rw [hr] at h
  case inr.inr.inr.inr =>
    obtain ⟨-, hcount⟩ := hfull d (Option.some.inj h)
    rw [bytesToDatagram_of_ne_idle hstate, hcount]
    rfl
  all_goals cases h

/-- Fewer bytes than the decoder needs deliver no datagram. -/
theorem datagram_notMem_deframe (w : List Byte) {r : DecRegs} (h : w.length < bytesToDatagram r) (d : Datagram) :
    Event.datagram d ∉ (deframe r w).2 := by
  induction w generalizing r with
  | nil => exact List.not_mem_nil
  | cons b w ih =>
    rw [List.length_cons] at h
    have hnext := bytesToDatagram_le_decStep r b
    refine fun hmem => (List.mem_append.1 hmem).elim (fun hfirst => ?_) (ih (by omega))
    have hone := bytesToDatagram_of_datagram (Option.mem_toList.1 hfirst)
    omega

/-- No byte raises an event in `Idle` (41_decoder.md R80, R81). -/
theorem decStep_event_of_idle {r : DecRegs} (h : r.state = .idle) (b : Byte) : (decStep r b).2 = none := by
  rcases decStep_cases r b with ⟨-, hr⟩ | ⟨-, hr⟩ | ⟨-, hr⟩ | ⟨-, v, hr⟩ | ⟨hstate, -⟩
  case inr.inr.inr.inr => exact absurd h hstate
  all_goals rw [hr]

/-- Every event leaves the decoder in `Idle` (41_decoder.md R90). -/
theorem decStep_state_of_event {r : DecRegs} {b : Byte} (h : (decStep r b).2 ≠ none) : (decStep r b).1.state = .idle := by
  rw [← decEffect_decodeRx] at h ⊢
  obtain ⟨e, he⟩ := Option.ne_none_iff_exists'.1 h
  rw [(decEffect_event he).2]

/-- Settles O54: from `Idle` the first byte raises nothing, and a datagram needs the 14 bytes of `bytesToDatagram`. -/
theorem eventsAreSpaced : Obligations.EventsAreSpaced := by
  refine ⟨fun r b => decStep_state_of_event, fun r w hstate => ⟨fun hlen => ?_, fun hlen => ?_⟩⟩
  · match w, hlen with
    | [], _ => rfl
    | [b], _ => simp [deframe, decStep_event_of_idle hstate b]
  · exact datagram_notMem_deframe w (by rwa [bytesToDatagram_of_idle hstate])

end Sys2Proof.Machine
end

section
namespace Sys2Proof

open Config

/-! ## The words of the table -/

/-- A word of one byte is read on the received stream, in the state its row states (log 11). -/
theorem decodeTableWord_byte (w : Nat) :
    decodeTableWord 8 w = some (decodeRx (tableState (.ofNat 8 w)) (.ofNat 8 w)) := rfl

/-- A frame has its two delimiters at least, so its bytes are read as a frame. -/
theorem tableSource_encodeFrame (d : Datagram) : tableSource (encodeFrame d) = .frame := by
  dsimp only [encodeFrame, encodeContent]
  cases stuffAll d.content.toList <;> rfl

/-- A word whose bytes are a datagram's frame is read as `FRAME` of that datagram (30_encoding.md R45, R50). -/
theorem decodeTableWord_of_wordBytes_eq_encodeFrame {nbits w : Nat} {d : Datagram}
    (h : wordBytes ((nbits + 7) / 8) w = encodeFrame d) : decodeTableWord nbits w = some (.frame d) := by
  have hread : decode .frame (encodeFrame d) = .ok (.frame d, []) :=
    (decode_frame_eq_ok_iff _ _ _).2 ⟨d, rfl, (List.append_nil _).symm⟩
  simp [decodeTableWord, h, tableSource_encodeFrame, hread]

/-- Settles O8: a word of one byte selects by the row of R52 in its state, and the bytes of E1's word are its frame. -/
theorem tableWordsDecode : Obligations.TableWordsDecode :=
  ⟨decodeTableWord_byte 0xC0, decodeTableWord_byte 0xDB, decodeTableWord_byte 0xDC, decodeTableWord_byte 0xDD,
    decodeTableWord_byte 0x41, rfl, decodeTableWord_of_wordBytes_eq_encodeFrame (by decide), rfl, rfl, rfl⟩

end Sys2Proof
end
